-- ==== Sys2Proof/Word.lean ====
section
/-! DEFINITION. The word and the buffer address of the block (10_state.md R20, 20_memory.md R50, R52). -/

namespace Sys2Proof

/-- One word of `BUF` or of a twiddle ROM: `W = 14` bits, unsigned (R20, R22, D2). -/
abbrev Word := BitVec 14

/-- A `BUF` address: 8 bits, and every value is a valid address (R50, R53). -/
abbrev Addr := BitVec 8

end Sys2Proof
end

