-- ==== Sys2Proof/Config.lean ====
section
/-! DEFINITION. The fixed parameters of the hardware (00_scope.md R5, 10_state.md R24). None is changed at run time. -/

namespace Sys2Proof.Config

/-- The modulus, a prime, hardwired into every primitive (R24). -/
abbrev Q : Nat := 12289

/-- Number of words of the buffer, the ring degree. -/
abbrev N : Nat := 256

/-- Number of butterfly stages, `log2 N`. -/
abbrev LOGN : Nat := 8

/-- The source's "primitive root"; its order modulo `Q` is 2048, not 512 (90_conflicts.md C1). -/
abbrev G : Nat := 7

/-- `G^-1 mod Q`. -/
abbrev GINV : Nat := 8778

/-- `N^-1 mod Q`, the multiplier operand of `SCALE` (R24, R155). -/
abbrev NINV : Nat := 12241

/-- The 512th root of unity the ROM image is built from, `G^4 mod Q` (decision D1). -/
abbrev PSI : Nat := 2401

/-- `PSI^-1 mod Q = GINV^4 mod Q`. -/
abbrev PSIINV : Nat := 11813

/-- Width in bits of a buffer or ROM word (D2). -/
abbrev W : Nat := 14

/-- Width in bits of the widest intermediate of the datapath (D3, R96). -/
abbrev WACC : Nat := 29

/-- Words per twiddle ROM, at addresses 1 to 255 (D4). -/
abbrev ROMDEPTH : Nat := 255

/-- Butterflies per transform direction, `LOGN * N / 2`. -/
abbrev NBFLY : Nat := 1024

end Sys2Proof.Config
end

