-- ==== Sys2Proof/Syntax.lean ====
section
/-! DEFINITION. The operations of spec/opcode_table.json, the words that carry them on the three ports, and the moves
of the two agents (30_encoding.md R70 to R77, 10_state.md R31). -/

namespace Sys2Proof

/-- The seven operations that have an encoding (30_encoding.md section 3), one constructor per row of the table.
The operand widths are those of the BUFREQ fields (R73), so an operand outside its field cannot be written. -/
inductive Instr where
  /-- `NTT_FWD`: host command, forward transform (R135). -/
  | nttFwd
  /-- `NTT_INV`: host command, inverse transform (R158). -/
  | nttInv
  /-- `BFLY_CT`: Cooley-Tukey butterfly micro-op at position `K` (R132). -/
  | bflyCt
  /-- `BFLY_GS`: Gentleman-Sande butterfly micro-op at position `K` (R152). -/
  | bflyGs
  /-- `SCALE`: normalisation micro-op at index `K` (R155). -/
  | scale
  /-- `HOST_RD(a)`: host read of one buffer word (R57). -/
  | hostRd (a : Addr)
  /-- `HOST_WR(a, v)`: host write of one buffer word (R56). -/
  | hostWr (a : Addr) (v : Word)
deriving DecidableEq, Repr

/-- A word on one of the three ports. The formats never compete in one decoder (30_encoding.md section 3), so a word
carries its port. -/
inductive PortWord where
  /-- Format CMD, 1 bit: the command port (R71). -/
  | cmd (op : BitVec 1)
  /-- Format UOP, 2 bits: the internal micro-op select (R72). -/
  | uop (code : BitVec 2)
  /-- Format BUFREQ, 23 bits: the buffer port (R73). -/
  | bufreq (w : BitVec 23)
deriving DecidableEq, Repr

/-- A move of the host (10_state.md R31), with the script's pseudo-move `WAIT` (30_encoding.md R75). The host has no
move that presents a UOP code (U6). -/
inductive HostMove where
  /-- Issue a command: the bit `op` with the `start` strobe (R71). -/
  | command (op : BitVec 1)
  /-- Issue a buffer request (R73). -/
  | request (w : BitVec 23)
  /-- Read the outputs `BUSY`, `DONE`, `ERR`, `ERRIDX`: always enabled, no state change (R26, R27). -/
  | readStatus
  /-- Apply reset: enabled in every state (R38, R210). -/
  | reset
  /-- Poll until `DONE = 1` or `ERR = 1`; the engine runs meanwhile (R75). -/
  | wait
deriving DecidableEq, Repr

/-- Whose move comes next: one host move, or one engine step. DESIGN CHOICE (notes/assumptions/1.md): the spec's two
agents interleave; the model writes the interleaving down as data. -/
inductive Turn where
  | host (m : HostMove)
  | engine
deriving DecidableEq, Repr

end Sys2Proof
end

