-- ==== Sys2Proof/WellFormed.lean ====
section
/-! DEFINITION. The checks on port words, table words and host scripts. The widths of an instruction's operands are
carried by their types (30_encoding.md R73), so an ill-formed operand cannot be written; what can be ill formed is a
UOP code, a bit pattern wider than its format, and a host script that breaks buffer ownership. -/

namespace Sys2Proof

/-- A port word is well formed unless it is the reserved micro-op code `0b11` (R76). -/
def PortWord.wf : PortWord → Bool
  | .cmd _ => true
  | .uop c => c != 3#2
  | .bufreq _ => true

/-- The number of bits of a port word's format (R71, R72, R73, R77). -/
def PortWord.width : PortWord → Nat
  | .cmd _ => 1
  | .uop _ => 2
  | .bufreq _ => 23

/-- A bit pattern fits a format of `width` bits. -/
def fitsWidth (width w : Nat) : Bool := decide (w < 2 ^ width)

/-- The ownership check a harness applies to a host script (93_implementation_defined.md U1: it "rejects a script that
issues such a move without an intervening wait for `DONE` or `ERR`"). `running` says that a transform may be in
progress: a command starts one, `WAIT` or `RESET` ends it. -/
def scriptWf : Bool → List Turn → Bool
  | _, [] => true
  | running, .host (.command _) :: ts => !running && scriptWf true ts
  | running, .host (.request _) :: ts => !running && scriptWf running ts
  | running, .host .readStatus :: ts => scriptWf running ts
  | _, .host .reset :: ts => scriptWf false ts
  | _, .host .wait :: ts => scriptWf false ts
  | running, .engine :: ts => scriptWf running ts

end Sys2Proof
end

