-- ==== Sys2Proof/Decode.lean ====
section
/-! DEFINITION. Decoding and encoding of the three formats (30_encoding.md R71, R72, R73, R76). -/

namespace Sys2Proof

/-- Why a port word is no instruction. Raised by `decode` only. -/
inductive DecodeReject where
  /-- `uop = 0b11` is reserved: "a model that decodes `uop` from bits must refuse `0b11` (no step)" (R76, U6). Safe. -/
  | reservedUop
deriving DecidableEq, Repr

/-- Format CMD: 0 is `NTT_FWD`, 1 is `NTT_INV`; both values are legal (R71). -/
def decodeCmd (op : BitVec 1) : Instr :=
  if op = 0#1 then .nttFwd else .nttInv

/-- Format UOP (R72); `0b11` is refused (R76). -/
def decodeUop (c : BitVec 2) : Except DecodeReject Instr :=
  if c = 0b00#2 then .ok .bflyCt
  else if c = 0b01#2 then .ok .bflyGs
  else if c = 0b10#2 then .ok .scale
  else .error .reservedUop

/-- Format BUFREQ: `we` is bit 22, `addr` bits 21:14, `wdata` bits 13:0, ignored when `we = 0` (R73, U10). -/
def decodeBufreq (w : BitVec 23) : Instr :=
  if w.getLsbD 22 then .hostWr (w.extractLsb' 14 8) (w.extractLsb' 0 14)
  else .hostRd (w.extractLsb' 14 8)

/-- The decoder, per format (30_encoding.md section 3: "a decoder is per format"). Total; it rejects by name. -/
def decode : PortWord → Except DecodeReject Instr
  | .cmd op => .ok (decodeCmd op)
  | .uop c => decodeUop c
  | .bufreq w => .ok (decodeBufreq w)

/-- A BUFREQ word from its three fields, `we` most significant (R73). -/
def bufreqWord (we : BitVec 1) (addr : Addr) (wdata : Word) : BitVec 23 :=
  we ++ addr ++ wdata

/-- The encoder, from the tables of R71, R72 and R73; a read request carries `wdata = 0` (any value means the same,
U10). -/
def encode : Instr → PortWord
  | .nttFwd => .cmd 0#1
  | .nttInv => .cmd 1#1
  | .bflyCt => .uop 0b00#2
  | .bflyGs => .uop 0b01#2
  | .scale => .uop 0b10#2
  | .hostRd a => .bufreq (bufreqWord 0#1 a 0#14)
  | .hostWr a v => .bufreq (bufreqWord 1#1 a v)

/-- The bits of a port word as a number, bit 0 least significant, as spec/opcode_table.json numbers them. -/
def PortWord.bits : PortWord → Nat
  | .cmd op => op.toNat
  | .uop c => c.toNat
  | .bufreq w => w.toNat

/-- One row of spec/opcode_table.json: the format's width in bits, and the bits that are fixed. -/
structure TableRow where
  mnemonic : String
  width : Nat
  mask : Nat
  pattern : Nat
deriving DecidableEq, Repr

/-- The row of each instruction (30_encoding.md section 3). -/
def tableRow : Instr → TableRow
  | .nttFwd => { mnemonic := "NTT_FWD", width := 1, mask := 0x1, pattern := 0x0 }
  | .nttInv => { mnemonic := "NTT_INV", width := 1, mask := 0x1, pattern := 0x1 }
  | .bflyCt => { mnemonic := "BFLY_CT", width := 2, mask := 0x3, pattern := 0x0 }
  | .bflyGs => { mnemonic := "BFLY_GS", width := 2, mask := 0x3, pattern := 0x1 }
  | .scale => { mnemonic := "SCALE", width := 2, mask := 0x3, pattern := 0x2 }
  | .hostRd _ => { mnemonic := "HOST_RD", width := 23, mask := 0x400000, pattern := 0x000000 }
  | .hostWr _ _ => { mnemonic := "HOST_WR", width := 23, mask := 0x400000, pattern := 0x400000 }

/-- A port word has the width and the fixed bits of a row. -/
def TableRow.matchesWord (r : TableRow) (w : PortWord) : Bool :=
  decide (w.width = r.width) && decide (w.bits &&& r.mask = r.pattern)

/-- The port word that a table word stands for. The table's formats are 1, 2 and 23 bits wide (R77) on three ports; a
width counted in whole bytes (8) no longer tells the two short ones apart. DESIGN CHOICE (notes/assumptions/13.md):
with 8 bits the command port is tried first, then the micro-op select. -/
def portWordOfTable (nbits w : Nat) : Option PortWord :=
  if 23 ≤ nbits then
    if fitsWidth 23 w then some (.bufreq (BitVec.ofNat 23 w)) else none
  else if nbits ≠ 2 ∧ fitsWidth 1 w then some (.cmd (BitVec.ofNat 1 w))
  else if nbits ≠ 1 ∧ fitsWidth 2 w then some (.uop (BitVec.ofNat 2 w))
  else none

/-- The instruction the decoder reads from a table word of `nbits` bits. -/
def decodeTableWord (nbits w : Nat) : Option Instr :=
  match portWordOfTable nbits w with
  | none => none
  | some pw =>
    match decode pw with
    | .ok i => some i
    | .error _ => none

end Sys2Proof
end

