-- ==== Sys2Proof/Machine/State.lean ====
section
/-! DEFINITION. The state of the machine (10_state.md section 1), the reasons a step can stop, and the state after
reset (10_state.md R38). -/

namespace Sys2Proof.Machine

/-- The direction held in the 1-bit register `OP`: forward is 0, inverse is 1 (R25). -/
inductive Dir where
  | fwd
  | inv
deriving DecidableEq, Repr

/-- The 2-bit register `PHASE`: `IDLE` = 0, `BFLY` = 1, `SCALE` = 2; the value 3 is never produced (R28, U6). -/
inductive Phase where
  | idle
  | bfly
  | scale
deriving DecidableEq, Repr

/-- The three address spaces (20_memory.md R50, R51). -/
inductive Space where
  | buf
  | twf
  | twi
deriving DecidableEq, Repr

/-- The written words of `BUF`: cells (address, word), addresses strictly rising. A word nobody has written since reset
holds no value (R38) and has no cell. The unit is the 14-bit word: no byte address exists (R52). -/
abbrev Memory := List (Nat × Word)

/-- What the host is answered: the response to a read request (R57, R73), or the status outputs (R26, R27). -/
inductive Reply where
  | word (rdata : Word)
  | status (busy done err : Bool) (erridx : Addr)
deriving DecidableEq, Repr

/-- Faults of the model. The block's one exception, `InvalidResidue`, is not here: it is a next state with `ERR = 1`
(60_exceptions.md R190, notes/assumptions/14.md). -/
inductive Fault where
  /-- An access to an address that does not exist: ROM address 0, a ROM or `BUF` address of 256 or more (R23, R50, R51).
  Raised by the operand reads of the micro-ops. The spec says no access does this (R53); the machine stops. Safe. -/
  | addressAbsent (space : Space) (address : Nat)
deriving DecidableEq, Repr

/-- Refusals: moves the spec does not give a step. -/
inductive Refusal where
  /-- An instruction without a meaning yet. Raised by `exec` only; no arm does. Safe. -/
  | notModelled (mnemonic : String)
  /-- A command while `BUSY = 1` (R31, U1). Raised by command acceptance. Safe. -/
  | commandWhileBusy
  /-- A command while `ERR = 1` (R31, U2). Raised by command acceptance. Safe. -/
  | commandWhileErr
  /-- `HOST_WR` or `HOST_RD` while `BUSY = 1` (R31, R59, U1). Raised by the host buffer accesses. Safe. -/
  | bufferAccessWhileBusy
  /-- A read of a word that nobody has written since reset, or a command while one is unwritten (R38, U3). Raised by
  `HOST_RD`, command acceptance and (in states no run reaches) the micro-ops. Safe. -/
  | unwrittenWord (address : Nat)
  /-- A micro-op outside its enabling condition (R33, R34, R35). Raised by the micro-ops; no engine step does it. Safe. -/
  | microOpNotEnabled
  /-- A micro-op operand of 12289 or more (R99, U4): the spec gives no meaning. Raised by the micro-ops in states no run
  reaches. Safe. -/
  | operandNotResidue (address : Nat)
  /-- `BUSY = 1` with `PHASE = IDLE`, a combination no run reaches (R28). Raised by the sequencer. Safe. -/
  | noMicroOpPending
  /-- A port word that is no instruction. Raised by the step when the decoder rejects. Safe. -/
  | badEncoding (r : DecodeReject)
deriving DecidableEq, Repr

/-- The state. The first eight fields are the spec's (10_state.md section 1: "Nothing else is state"); the ROMs and
`Q`, `NINV` are constants (R117, R24). `turns` and `replies` are the model's own: the outside world as data
(notes/assumptions/1.md, 2.md). -/
structure State where
  /-- `BUF` (R20). -/
  buf : Memory
  /-- `OP` (R25). -/
  op : Dir
  /-- `BUSY` (R26). -/
  busy : Bool
  /-- `DONE` (R26). -/
  done : Bool
  /-- `ERR` (R26). -/
  err : Bool
  /-- `ERRIDX` (R27). -/
  erridx : Addr
  /-- `PHASE` (R28). -/
  phase : Phase
  /-- `K` (R28). -/
  k : BitVec 10
  /-- The moves still to come, oldest first (R31, R74). -/
  turns : List Turn
  /-- What the host has been answered, newest first (R57, R73). -/
  replies : List Reply
deriving DecidableEq, Repr

/-- The machine right after reset: the table of R38. `turns` and `replies` are empty (DESIGN CHOICE,
notes/assumptions/1.md, 2.md). -/
def State.reset : State where
  buf := []
  op := .fwd
  busy := false
  done := false
  err := false
  erridx := 0#8
  phase := .idle
  k := 0#10
  turns := []
  replies := []

end Sys2Proof.Machine
end

