-- ==== Sys2Proof/Machine/Modular.lean ====
section
/-! DEFINITION. The combinational primitives (40_modular_arithmetic.md R90 to R94). All quantities are exact naturals:
no intermediate ever wraps (R96, notes/assumptions/18.md). -/

namespace Sys2Proof.Machine

open Sys2Proof.Config

/-- `MODRED(x) = x mod 12289` (R91). -/
def modred (x : Nat) : Nat := x % Q

/-- `MODADD(a, b) = MODRED(a + b)` (R92). -/
def modadd (a b : Nat) : Nat := modred (a + b)

/-- `d = a - b + 12289`, exact and not reduced; the bias is added before anything could go negative (R93, R152). -/
def biasedDiff (a b : Nat) : Nat := a + Q - b

/-- `MODSUB(a, b) = MODRED(d)` (R93). -/
def modsub (a b : Nat) : Nat := modred (biasedDiff a b)

/-- `MODMUL(a, b) = MODRED(a * b)` (R94). -/
def modmul (a b : Nat) : Nat := modred (a * b)

/-- The Barrett circuit of 40_modular_arithmetic.md section 4, an allowed substitute for `MODRED` on 29-bit inputs
(R95; informative, G1). -/
def barrett (x : Nat) : Nat :=
  let t := (x * 43687) >>> 29
  let r := x - t * Q
  if Q ≤ r then r - Q else r

end Sys2Proof.Machine
end

