-- ==== Sys2Proof/Machine/Rom.lean ====
section
/-! DEFINITION. The two twiddle ROMs (10_state.md R22, R23; 41_twiddle_rom.md R110 to R113, R117). Their contents are
constants ("compiled in as literals"), the image of decision D1; nothing writes them. -/

namespace Sys2Proof.Machine

open Sys2Proof.Config

/-- R112: `TWF` addresses 1 to 63. -/
def twfTableA : List Nat := [
  10810, 7143, 4043, 10984, 722, 5736, 8155,
  3542, 8785, 9744, 3621, 10643, 1212, 3195, 5860,
  7468, 2639, 9664, 11340, 11726, 9314, 9283, 9545,
  5728, 7698, 5023, 5828, 8961, 6512, 7311, 1351,
  2319, 11119, 11334, 11499, 9088, 3014, 5086, 10963,
  4846, 9542, 9154, 3712, 4805, 8736, 11227, 9995,
  3091, 12208, 7969, 11289, 9326, 7393, 9238, 2366,
  11112, 8034, 10654, 9521, 12149, 10436, 7678, 11563]

/-- R112: `TWF` addresses 64 to 127. -/
def twfTableB : List Nat := [
  1260, 4388, 4632, 6534, 2426, 334, 1428, 1696,
  2013, 9000, 729, 3241, 2881, 3284, 7197, 10200,
  8595, 7110, 10530, 8582, 3382, 11934, 9741, 8058,
  3637, 3459, 145, 6747, 9558, 8357, 7399, 6378,
  9447, 480, 1022, 9, 9821, 339, 5791, 544,
  10616, 4278, 6958, 7300, 8112, 8705, 1381, 9764,
  11336, 8541, 827, 5767, 2476, 118, 2197, 7222,
  3949, 8993, 4452, 2396, 7935, 130, 2837, 6915]

/-- R112: `TWF` addresses 128 to 191. -/
def twfTableC : List Nat := [
  2401, 442, 7188, 11222, 390, 773, 8456, 3778,
  354, 4861, 9377, 5698, 5012, 9808, 2859, 11244,
  1017, 7404, 1632, 7205, 27, 9223, 8526, 10849,
  1537, 242, 4714, 8146, 9611, 3704, 5019, 11744,
  1002, 5011, 5088, 8005, 7313, 10682, 8509, 11414,
  9852, 3646, 6022, 2987, 9723, 10102, 6250, 9867,
  11224, 2143, 11885, 7644, 1168, 5277, 11082, 3248,
  493, 8193, 6845, 2381, 7952, 11854, 1378, 1912]

/-- R112: `TWF` addresses 192 to 255. -/
def twfTableD : List Nat := [
  2166, 3915, 12176, 7370, 12129, 3149, 12286, 4437,
  3636, 4938, 5291, 2704, 10863, 7635, 1663, 10512,
  3364, 1689, 4057, 9018, 9442, 7875, 2174, 4372,
  7247, 9984, 4053, 2645, 5195, 9509, 7394, 1484,
  9042, 9603, 8311, 9320, 9919, 2865, 5332, 3510,
  1630, 10163, 5407, 3186, 11136, 9405, 10040, 8241,
  9890, 8889, 7098, 9153, 9289, 671, 3016, 243,
  6730, 420, 10111, 1544, 3985, 4905, 3531, 476]

/-- The words of `TWF`, address 1 first (R112). -/
def twfTable : List Nat := twfTableA ++ twfTableB ++ twfTableC ++ twfTableD

/-- R113: `TWI` addresses 1 to 63. -/
def twiTableA : List Nat := [
  1479, 8246, 5146, 4134, 6553, 11567, 1305,
  6429, 9094, 11077, 1646, 8668, 2545, 3504, 8747,
  10938, 4978, 5777, 3328, 6461, 7266, 4591, 6561,
  2744, 3006, 2975, 563, 949, 2625, 9650, 4821,
  726, 4611, 1853, 140, 2768, 1635, 4255, 1177,
  9923, 3051, 4896, 2963, 1000, 4320, 81, 9198,
  2294, 1062, 3553, 7484, 8577, 3135, 2747, 7443,
  1326, 7203, 9275, 3201, 790, 955, 1170, 9970]

/-- R113: `TWI` addresses 64 to 127. -/
def twiTableB : List Nat := [
  5374, 9452, 12159, 4354, 9893, 7837, 3296, 8340,
  5067, 10092, 12171, 9813, 6522, 11462, 3748, 953,
  2525, 10908, 3584, 4177, 4989, 5331, 8011, 1673,
  11745, 6498, 11950, 2468, 12280, 11267, 11809, 2842,
  5911, 4890, 3932, 2731, 5542, 12144, 8830, 8652,
  4231, 2548, 355, 8907, 3707, 1759, 5179, 3694,
  2089, 5092, 9005, 9408, 9048, 11560, 3289, 10276,
  10593, 10861, 11955, 9863, 5755, 7657, 7901, 11029]

/-- R113: `TWI` addresses 128 to 191. -/
def twiTableC : List Nat := [
  11813, 8758, 7384, 8304, 10745, 2178, 11869, 5559,
  12046, 9273, 11618, 3000, 3136, 5191, 3400, 2399,
  4048, 2249, 2884, 1153, 9103, 6882, 2126, 10659,
  8779, 6957, 9424, 2370, 2969, 3978, 2686, 3247,
  10805, 4895, 2780, 7094, 9644, 8236, 2305, 5042,
  7917, 10115, 4414, 2847, 3271, 8232, 10600, 8925,
  1777, 10626, 4654, 1426, 9585, 6998, 7351, 8653,
  7852, 3, 9140, 160, 4919, 113, 8374, 10123]

/-- R113: `TWI` addresses 192 to 255. -/
def twiTableD : List Nat := [
  10377, 10911, 435, 4337, 9908, 5444, 4096, 11796,
  9041, 1207, 7012, 11121, 4645, 404, 10146, 1065,
  2422, 6039, 2187, 2566, 9302, 6267, 8643, 2437,
  875, 3780, 1607, 4976, 4284, 7201, 7278, 11287,
  545, 7270, 8585, 2678, 4143, 7575, 12047, 10752,
  1440, 3763, 3066, 12262, 5084, 10657, 4885, 11272,
  1045, 9430, 2481, 7277, 6591, 2912, 7428, 11935,
  8511, 3833, 11516, 11899, 1067, 5101, 11847, 9888]

/-- The words of `TWI`, address 1 first (R113). -/
def twiTable : List Nat := twiTableA ++ twiTableB ++ twiTableC ++ twiTableD

/-- The words of a ROM, address 1 first; `BUF` is no ROM. -/
def romTable : Space → List Nat
  | .twf => twfTable
  | .twi => twiTable
  | .buf => []

/-- The word at ROM address `k`, 1 to 255; address 0 does not exist (R23, U5). -/
def romWord? (sp : Space) (k : Nat) : Option Nat :=
  match k with
  | 0 => none
  | n + 1 => (romTable sp)[n]?

/-- The word at a ROM address as a number, for the transforms as functions, which read addresses 1 to 255 only. -/
def romWord (sp : Space) (k : Nat) : Nat := (romWord? sp k).getD 0

/-- `brv_w(x)`: the `w`-bit bit reversal, `sum over b of x[b] * 2^(w-1-b)` (00_scope.md section 6.1). -/
def brv : Nat → Nat → Nat
  | 0, _ => 0
  | w + 1, x => (x % 2) * 2 ^ w + brv w (x / 2)

/-- The exponent of ROM address `k` (R110). -/
def romExponent (k : Nat) : Nat := brv LOGN k

/-- `TWGEN`, the build-time table rule, for the forward ROM (R111). -/
def twgenFwd (k : Nat) : Nat := PSI ^ romExponent k % Q

/-- `TWGEN` for the inverse ROM (R111). -/
def twgenInv (k : Nat) : Nat := PSIINV ^ romExponent k % Q

end Sys2Proof.Machine
end

