-- ==== Sys2Proof/Machine/Ops.lean ====
section
/-! DEFINITION. The named operations over memory and registers: `MemRead`, `MemWrite`, `RomRead`, the updates of the
registers, the fault `InvalidResidue`, and `RESET` (00_scope.md section 6.2; 10_state.md R32, R38; 60_exceptions.md
R190). -/

namespace Sys2Proof.Machine

open Sys2Proof.Config

/-- Continue after a part of a step that went on; stop where it stopped. -/
def andThen {α β : Type} (x : Host.Outcome α Fault Refusal) (f : α → Host.Outcome β Fault Refusal) :
    Host.Outcome β Fault Refusal :=
  match x with
  | .next a => f a
  | .fault r => .fault r
  | .refused r => .refused r

/-! ### `BUF` -/

/-- The canonical form: addresses strictly rising, each an address of `BUF` (R50). No cell can equal what an unlisted
address reads as, since an unlisted address holds no value. -/
abbrev Memory.wf (m : Memory) : Prop :=
  m.Pairwise (fun c d => c.1 < d.1) ∧ ∀ c ∈ m, c.1 < N

/-- The word at an address, or no value where nobody has written since reset (R38, notes/assumptions/3.md). -/
def Memory.read : Memory → Nat → Option Word
  | [], _ => none
  | (b, w) :: m, a => if a = b then some w else Memory.read m a

/-- Write one word, keeping the addresses rising. -/
def Memory.write : Memory → Nat → Word → Memory
  | [], a, v => [(a, v)]
  | (b, w) :: m, a, v =>
    if a < b then (a, v) :: (b, w) :: m
    else if a = b then (a, v) :: m
    else (b, w) :: Memory.write m a v

/-- `MemRead(a, 1)` (R50, R54): the word at `a`; no address of 256 or more exists. -/
def memRead (m : Memory) (a : Nat) : Host.Outcome Word Fault Refusal :=
  if a < N then
    match Memory.read m a with
    | some w => .next w
    | none => .refused (.unwrittenWord a)
  else .fault (.addressAbsent .buf a)

/-- `MemWrite(a, 1, v)` with `v` a number the datapath formed; the word keeps its low 14 bits (R50, R54). -/
def memWrite (m : Memory) (a : Nat) (v : Nat) : Memory := Memory.write m a (BitVec.ofNat W v)

/-- A micro-op's operand: the word at `a` as a number, which must be a residue (R97, R99, U4). -/
def readResidue (m : Memory) (a : Nat) : Host.Outcome Nat Fault Refusal :=
  andThen (memRead m a) fun w =>
    if w.toNat < Q then .next w.toNat else .refused (.operandNotResidue a)

/-- `RomRead(rom, k)`: addresses 1 to 255 exist, no other (R23, R51). -/
def romRead (sp : Space) (k : Nat) : Host.Outcome Nat Fault Refusal :=
  match romWord? sp k with
  | some v => .next v
  | none => .fault (.addressAbsent sp k)

/-! ### The residue check of command acceptance -/

/-- Whether word `a` has been written and is not a residue: 12289 to 16383 (R20, R190). -/
def isInvalidAt (m : Memory) (a : Nat) : Bool :=
  match Memory.read m a with
  | some w => decide (Q ≤ w.toNat)
  | none => false

/-- The lowest word nobody has written since reset (R212, U3). -/
def firstUnwritten (m : Memory) : Option Nat :=
  (List.range N).find? fun a => (Memory.read m a).isNone

/-- `min { i | BUF[i] >= Q }`, if there is such an `i` (R32, R190). -/
def firstInvalid (m : Memory) : Option Nat :=
  (List.range N).find? fun a => isInvalidAt m a

/-! ### Register updates -/

/-- Replace the buffer. -/
def State.putBuf (s : State) (m : Memory) : State := { s with buf := m }

/-- The two assignments every command acceptance makes, faulting or not: `OP <- op; DONE <- 0` (R32, 90_conflicts.md C9). -/
def State.latchCommand (s : State) (d : Dir) : State := { s with op := d, done := false }

/-- The engine takes over: `BUSY <- 1; (PHASE, K) <- (BFLY, 0)` (R32). -/
def State.start (s : State) : State := { s with busy := true, phase := .bfly, k := 0#10 }

/-- `K <- K + 1` (R33, R34, R35). -/
def State.advance (s : State) : State := { s with k := s.k + 1#10 }

/-- `(PHASE, K) <- (SCALE, 0)` (R34). -/
def State.toScale (s : State) : State := { s with phase := .scale, k := 0#10 }

/-- Completion: `BUSY <- 0; DONE <- 1; (PHASE, K) <- (IDLE, 0)`; `OP` keeps its value (R36). -/
def State.complete (s : State) : State := { s with busy := false, done := true, phase := .idle, k := 0#10 }

/-- Answer the host. -/
def State.reply (s : State) (r : Reply) : State := { s with replies := r :: s.replies }

/-- Set the moves still to come. -/
def State.putTurns (s : State) (ts : List Turn) : State := { s with turns := ts }

/-! ### The fault and reset -/

/-- Taking the one exception, `raise InvalidResidue(i)`: `ERR <- 1; ERRIDX <- i`. Nothing is saved and control goes
nowhere; `BUSY`, `PHASE`, `K` and `BUF` stay (R190, R194). -/
def State.raiseInvalidResidue (s : State) (i : Nat) : State :=
  { s with err := true, erridx := BitVec.ofNat 8 i }

/-- The only way back from the exception, and the only operation that ends a transform early: `RESET` (R38, R195,
R210, R211). Every block register takes its reset value and every buffer word counts as unwritten; the host's own
`turns` and `replies` are outside the block. -/
def State.applyReset (s : State) : State :=
  { State.reset with turns := s.turns, replies := s.replies }

end Sys2Proof.Machine
end

