-- ==== Sys2Proof/Machine/Operands.lean ====
section
/-! DEFINITION. The operands of the micro-ops, all implicit: computed from the sequencer position `K`
(42_forward_transform.md R131, 43_inverse_transform.md R151, R155). -/

namespace Sys2Proof.Machine

open Sys2Proof.Config

/-- The addresses of one butterfly: low position, high position, ROM address. -/
structure Pair where
  lo : Nat
  hi : Nat
  rom : Nat
deriving DecidableEq, Repr

/-- `K[9:7]`, the stage number (R28). -/
def stageOf (k : BitVec 10) : Nat := k.toNat / 128

/-- `K[6:0]`, the butterfly number within the stage (R28). -/
def bflyOf (k : BitVec 10) : Nat := k.toNat % 128

/-- The forward butterfly `b` of stage `l` (R131). -/
def fwdPairAt (l b : Nat) : Pair :=
  let m := 1 <<< l
  let half := 128 >>> l
  let i := b / half
  let r := b % half
  let j := i * 2 * half + r
  { lo := j, hi := j + half, rom := m + i }

/-- The inverse butterfly `b` of stage `l'` (R151). -/
def invPairAt (l b : Nat) : Pair :=
  let t := 1 <<< l
  let h := 128 >>> l
  let i := b / t
  let r := b % t
  let j := i * 2 * t + r
  { lo := j, hi := j + t, rom := h + i }

/-- The addresses of `BFLY_CT` at position `K` (R131). -/
def fwdPair (k : BitVec 10) : Pair := fwdPairAt (stageOf k) (bflyOf k)

/-- The addresses of `BFLY_GS` at position `K` (R151). -/
def invPair (k : BitVec 10) : Pair := invPairAt (stageOf k) (bflyOf k)

/-- The buffer index of `SCALE` at position `K`: `j = K` (R155). -/
def scaleIndex (k : BitVec 10) : Nat := k.toNat

end Sys2Proof.Machine
end

