-- ==== Sys2Proof/Machine/Flags.lean ====
section
/-! DEFINITION. The status flags and the codes of the control registers (10_state.md R25 to R28). They are not
condition codes: no arithmetic result sets them (R26), so there is no flag computation beyond acceptance and
completion (Machine/Ops.lean). -/

namespace Sys2Proof.Machine

/-- The bit `OP` holds (R25), which is also the command's `op` bit (R71). -/
def Dir.bit : Dir → BitVec 1
  | .fwd => 0#1
  | .inv => 1#1

/-- The 2-bit code of `PHASE` (R28). -/
def Phase.code : Phase → BitVec 2
  | .idle => 0#2
  | .bfly => 1#2
  | .scale => 2#2

/-- The legal combinations of `(BUSY, DONE, ERR)`: idle, running, completed, faulted (R26). -/
def flagsLegal (busy done err : Bool) : Bool :=
  !(busy && done) && !(busy && err) && !(done && err)

/-- What a status read answers: the four outputs as they stand (R26, R27, R31). -/
def statusReply (s : State) : Reply := .status s.busy s.done s.err s.erridx

end Sys2Proof.Machine
end

