-- ==== Sys2Proof/Machine/Butterfly.lean ====
section
/-! DEFINITION. The butterfly micro-ops `BFLY_CT` and `BFLY_GS` (42_forward_transform.md R132, 43_inverse_transform.md
R152) with the sequencing of the enclosing step (10_state.md R33, R34, R36). -/

namespace Sys2Proof.Machine

open Sys2Proof.Config

/-- The Cooley-Tukey combination: multiply the high operand first, then add and subtract (R132). -/
def ctOut (u w tw : Nat) : Nat × Nat :=
  let v := modmul w tw
  (modadd u v, modsub u v)

/-- The Gentleman-Sande combination: add and subtract, then multiply the unreduced difference (R152, R153). -/
def gsOut (u v tw : Nat) : Nat × Nat :=
  (modadd u v, modmul (biasedDiff u v) tw)

/-- The two writes of a butterfly (R132, R152). -/
def writePair (m : Memory) (p : Pair) (out : Nat × Nat) : Memory :=
  memWrite (memWrite m p.lo out.1) p.hi out.2

/-- One butterfly on the buffer: both operand reads and the ROM read happen before either write (R54, R58). -/
def butterfly (m : Memory) (rom : Space) (p : Pair) (comb : Nat → Nat → Nat → Nat × Nat) :
    Host.Outcome Memory Fault Refusal :=
  andThen (readResidue m p.lo) fun u =>
  andThen (readResidue m p.hi) fun w =>
  andThen (romRead rom p.rom) fun tw =>
  .next (writePair m p (comb u w tw))

/-- After a forward butterfly: `if K = 1023 then complete else K <- K + 1` (R33). -/
def afterCt (s : State) : State := if s.k = 1023#10 then s.complete else s.advance

/-- After an inverse butterfly: `if K = 1023 then (PHASE, K) <- (SCALE, 0) else K <- K + 1` (R34). -/
def afterGs (s : State) : State := if s.k = 1023#10 then s.toScale else s.advance

/-- `BFLY_CT` (R132), enabled when `BUSY = 1`, `PHASE = BFLY`, `OP = 0` (R33). -/
def execBflyCt (s : State) : Host.Outcome State Fault Refusal :=
  if s.busy = true ∧ s.phase = .bfly ∧ s.op = .fwd then
    andThen (butterfly s.buf .twf (fwdPair s.k) ctOut) fun m => .next (afterCt (s.putBuf m))
  else .refused .microOpNotEnabled

/-- `BFLY_GS` (R152), enabled when `BUSY = 1`, `PHASE = BFLY`, `OP = 1` (R34). -/
def execBflyGs (s : State) : Host.Outcome State Fault Refusal :=
  if s.busy = true ∧ s.phase = .bfly ∧ s.op = .inv then
    andThen (butterfly s.buf .twi (invPair s.k) gsOut) fun m => .next (afterGs (s.putBuf m))
  else .refused .microOpNotEnabled

end Sys2Proof.Machine
end

