-- ==== Sys2Proof/Machine/Command.lean ====
section
/-! DEFINITION. The host commands `NTT_FWD` and `NTT_INV`: the acceptance step (10_state.md R32, R135, R158). The
1024 or 1280 engine steps that follow are the micro-ops of Machine/Butterfly.lean and Machine/Scale.lean. -/

namespace Sys2Proof.Machine

/-- Command acceptance, common to both directions (R32). It is enabled when `BUSY = 0` and `ERR = 0` (R31) and refused
while any word is unwritten (R38, U3); the order in which these three are looked at is the model's
(notes/assumptions/19.md). `OP <- op` and `DONE <- 0` happen also when the residue check faults (90_conflicts.md C9). -/
def acceptCommand (d : Dir) (s : State) : Host.Outcome State Fault Refusal :=
  if s.busy then .refused .commandWhileBusy
  else if s.err then .refused .commandWhileErr
  else
    match firstUnwritten s.buf with
    | some a => .refused (.unwrittenWord a)
    | none =>
      match firstInvalid s.buf with
      | some i => .next ((s.latchCommand d).raiseInvalidResidue i)
      | none => .next (s.latchCommand d).start

/-- `NTT_FWD` (R135): acceptance with `op = 0`. -/
def execNttFwd (s : State) : Host.Outcome State Fault Refusal := acceptCommand .fwd s

/-- `NTT_INV` (R158): acceptance with `op = 1`. -/
def execNttInv (s : State) : Host.Outcome State Fault Refusal := acceptCommand .inv s

end Sys2Proof.Machine
end

