-- ==== Sys2Proof/Machine/HostAccess.lean ====
section
/-! DEFINITION. The host's buffer accesses `HOST_RD` and `HOST_WR` (20_memory.md R56, R57). -/

namespace Sys2Proof.Machine

/-- `HOST_RD(a)` (R57): the host is answered `BUF[a]`; no state of the block changes. Enabled when `BUSY = 0` (R31); a
word nobody has written holds no value to answer with (U3). -/
def execHostRd (a : Addr) (s : State) : Host.Outcome State Fault Refusal :=
  if s.busy then .refused .bufferAccessWhileBusy
  else andThen (memRead s.buf a.toNat) fun w => .next (s.reply (.word w))

/-- `HOST_WR(a, v)` (R56): `BUF[a] <- v`, any 14-bit `v`; no flag is written, `ERR = 1` does not matter. Enabled when
`BUSY = 0` (R31). -/
def execHostWr (a : Addr) (v : Word) (s : State) : Host.Outcome State Fault Refusal :=
  if s.busy then .refused .bufferAccessWhileBusy
  else .next (s.putBuf (Memory.write s.buf a.toNat v))

end Sys2Proof.Machine
end

