-- ==== Sys2Proof/Machine/Scale.lean ====
section
/-! DEFINITION. The normalisation micro-op `SCALE` (43_inverse_transform.md R155, R156) with the sequencing of the
enclosing step (10_state.md R35, R36). -/

namespace Sys2Proof.Machine

open Sys2Proof.Config

/-- `(x * NINV) mod Q` (R155). -/
def scaleOut (x : Nat) : Nat := modmul x NINV

/-- One scaling on the buffer (R155). -/
def scaleWord (m : Memory) (j : Nat) : Host.Outcome Memory Fault Refusal :=
  andThen (readResidue m j) fun x => .next (memWrite m j (scaleOut x))

/-- After a scaling: `if K = 255 then complete else K <- K + 1` (R35). -/
def afterScale (s : State) : State := if s.k = 255#10 then s.complete else s.advance

/-- `SCALE` (R155), enabled when `BUSY = 1`, `PHASE = SCALE` (R35). -/
def execScale (s : State) : Host.Outcome State Fault Refusal :=
  if s.busy = true ∧ s.phase = .scale then
    andThen (scaleWord s.buf (scaleIndex s.k)) fun m => .next (afterScale (s.putBuf m))
  else .refused .microOpNotEnabled

end Sys2Proof.Machine
end

