-- ==== Sys2Proof/Machine/Dispatch.lean ====
section
/-! DEFINITION. One arm per constructor of `Instr`. -/

namespace Sys2Proof.Machine

def exec (i : Instr) (s : State) : Host.Outcome State Fault Refusal :=
  match i with
  | .nttFwd => Sys2Proof.Machine.execNttFwd s
  | .nttInv => Sys2Proof.Machine.execNttInv s
  | .bflyCt => Sys2Proof.Machine.execBflyCt s
  | .bflyGs => Sys2Proof.Machine.execBflyGs s
  | .scale => Sys2Proof.Machine.execScale s
  | .hostRd a => Sys2Proof.Machine.execHostRd a s
  | .hostWr a v => Sys2Proof.Machine.execHostWr a v s

end Sys2Proof.Machine
end

