-- ==== Sys2Proof/Machine/Sequencer.lean ====
section
/-! DEFINITION. Where the next step's work comes from: the host's schedule and the sequencer (10_state.md R28, R31, R37;
30_encoding.md R72, R75). The block fetches no instructions (R62); a port word is presented by the host, or generated
from `(PHASE, OP)` by the sequencer. -/

namespace Sys2Proof.Machine

/-- The micro-op code the sequencer generates, a pure function of `(PHASE, OP)` (R72); none in `IDLE` (R28). -/
def uopCode : Phase → Dir → Option (BitVec 2)
  | .idle, _ => none
  | .bfly, .fwd => some 0b00#2
  | .bfly, .inv => some 0b01#2
  | .scale, _ => some 0b10#2

/-- What the next step does, and the state with its turn taken. -/
inductive Fetched where
  /-- Run the instruction of a port word. -/
  | word (w : PortWord) (s : State)
  /-- A status read (R31). -/
  | status (s : State)
  /-- `RESET` (R38). -/
  | reset (s : State)
  /-- No agent changes anything: an idle block waits (R203), or a `WAIT` is over or still polling (R75). -/
  | nothing (s : State)
  /-- `BUSY = 1` with no micro-op pending, a state no run reaches (R28). -/
  | stuck
deriving DecidableEq, Repr

/-- The engine's turn: its next micro-op while `BUSY = 1`, nothing otherwise (R31). -/
def engineTurn (s : State) : Fetched :=
  if s.busy then
    match uopCode s.phase s.op with
    | some c => .word (.uop c) s
    | none => .stuck
  else .nothing s

/-- The work of the next step. With no turn left the engine runs on (the fairness premise of R37; DESIGN CHOICE,
notes/assumptions/1.md). A `WAIT` stays at the head until `DONE = 1` or `ERR = 1`, the engine stepping meanwhile
(R75, notes/assumptions/16.md). -/
def fetch (s : State) : Fetched :=
  match s.turns with
  | [] => engineTurn s
  | .engine :: ts => engineTurn (s.putTurns ts)
  | .host (.command op) :: ts => .word (.cmd op) (s.putTurns ts)
  | .host (.request w) :: ts => .word (.bufreq w) (s.putTurns ts)
  | .host .readStatus :: ts => .status (s.putTurns ts)
  | .host .reset :: ts => .reset (s.putTurns ts)
  | .host .wait :: ts => if s.done || s.err then .nothing (s.putTurns ts) else engineTurn s

/-- The whole buffer written by the host: a word nobody has written becomes 0, a written word stays (R212 step 3). Used
by the loading of a table word only; no step does it. -/
def preload (m : Memory) : Memory :=
  (List.range Config.N).map fun a => (a, (Memory.read m a).getD 0#14)

/-- Present a port word to the next step (notes/assumptions/12.md). The buffer is loaded first, as R212 asks before a
command. A command or a request becomes the host's next move. A micro-op code is not presented by anyone: the sequencer
is put where it generates that code (R72), in the state an accepted command leaves (R32), and the engine has the turn. -/
def present (s : State) (w : PortWord) : State :=
  let s := s.putBuf (preload s.buf)
  match w with
  | .cmd op => s.putTurns (.host (.command op) :: s.turns)
  | .bufreq r => s.putTurns (.host (.request r) :: s.turns)
  | .uop c =>
    { s with
      turns := .engine :: s.turns
      busy := true
      done := false
      err := false
      op := if c = 0b00#2 then .fwd else .inv
      phase := if c = 0b10#2 then .scale else .bfly
      k := 0#10 }

end Sys2Proof.Machine
end

