-- ==== Sys2Proof/Machine/Step.lean ====
section
/-! DEFINITION. One step of the machine: one host move or one engine micro-op, atomic (00_scope.md R6, 10_state.md
section 7). -/

namespace Sys2Proof.Machine

/-- Decode a port word and run its instruction. -/
def runWord (w : PortWord) (s : State) : Host.Outcome State Fault Refusal :=
  match decode w with
  | .ok i => exec i s
  | .error r => .refused (.badEncoding r)

/-- One step (R31 to R38). -/
def step (s : State) : Host.Outcome State Fault Refusal :=
  match fetch s with
  | .word w t => runWord w t
  | .status t => .next (t.reply (statusReply t))
  | .reset t => .next t.applyReset
  | .nothing t => .next t
  | .stuck => .refused .noMicroOpPending

/-- The state whose next step runs the instruction of a table word (notes/assumptions/12.md, 13.md); unchanged where
the word is no instruction of any port (`0b11` is never generated, R76). -/
def State.withFetchWord (s : State) (nbits w : Nat) : State :=
  match portWordOfTable nbits w with
  | some pw => if pw.wf then present s pw else s
  | none => s

end Sys2Proof.Machine
end

