-- ==== Sys2Proof/Machine/Script.lean ====
section
/-! DEFINITION. The host script's moves and the expansions of its pseudo-moves (30_encoding.md R74, R75). A script is a
list of turns. -/

namespace Sys2Proof.Machine

/-- `WR a, v` (R74), through the encoder of R73. -/
def moveWr (a : Addr) (v : Word) : Turn := .host (.request (bufreqWord 1#1 a v))

/-- `RD a` (R74). -/
def moveRd (a : Addr) : Turn := .host (.request (bufreqWord 0#1 a 0#14))

/-- `NTT_FWD` or `NTT_INV` (R74). -/
def moveCommand (d : Dir) : Turn := .host (.command d.bit)

/-- `WR a, v0; WR a+1, v1; ...` -/
def loadFrom : Nat → List Word → List Turn
  | _, [] => []
  | a, v :: vs => moveWr (BitVec.ofNat 8 a) v :: loadFrom (a + 1) vs

/-- `LOAD v0, ..., v255`: 256 writes, increasing address (R75). -/
def scriptLoad (vs : List Word) : List Turn := loadFrom 0 vs

/-- `DUMP`: `RD 0; ...; RD 255` (R75). -/
def scriptDump : List Turn := (List.range Config.N).map fun a => moveRd (BitVec.ofNat 8 a)

/-- `FWD` and `INV`: the command, then `WAIT`; the source's blocking calls (R75). -/
def scriptCall (d : Dir) : List Turn := [moveCommand d, .host .wait]

end Sys2Proof.Machine
end

