-- ==== Sys2Proof/Machine/System.lean ====
section
/-! DEFINITION. Several instances of the block: the product of single-instance machines over one constant ROM
(60_exceptions.md R201). -/

namespace Sys2Proof.Machine

/-- One step of the system: instance `i` takes its step, no other instance changes (R201). -/
def systemStep (sys : List State) (i : Fin sys.length) : Host.Outcome (List State) Fault Refusal :=
  andThen (step sys[i]) fun t => .next (sys.set i t)

end Sys2Proof.Machine
end

