-- ==== Sys2Proof/Machine/Transform.lean ====
section
/-! DEFINITION. The whole transforms as functions on buffers: `NTT_FWD_fn` (42_forward_transform.md R134) and
`NTT_INV_fn` (43_inverse_transform.md R157), written from the spec's loop nests, and the reference formulas of
44_contract_properties.md. No step calls them: claims compare the machine with them. A buffer is seen here as the
function from its 256 positions to numbers; it is no field of State. The transforms are written over any twiddle words
and then taken at the ROM image, so that claims can also speak of another image (R119, R180). -/

namespace Sys2Proof.Machine

open Sys2Proof.Config

/-- The 256 numbers of a buffer, by position; what stands at 256 and above means nothing. -/
abbrev Coeffs := Nat → Nat

/-- The words of a twiddle ROM by address; what stands outside 1 to 255 means nothing. -/
abbrev Twiddles := Nat → Nat

/-- Replace the number at one position. -/
def setAt (p : Coeffs) (a v : Nat) : Coeffs := fun x => if x = a then v else p x

/-- A combination applied to the two positions of a pair. -/
def combineAt (comb : Nat → Nat → Nat → Nat × Nat) (tw : Twiddles) (p : Coeffs) (pr : Pair) : Coeffs :=
  let out := comb (p pr.lo) (p pr.hi) (tw pr.rom)
  setAt (setAt p pr.lo out.1) pr.hi out.2

/-- The Cooley-Tukey butterfly on a pair, with the words of `TWF` (R132). -/
def ctAt (p : Coeffs) (pr : Pair) : Coeffs := combineAt ctOut (romWord .twf) p pr

/-- The Gentleman-Sande butterfly on a pair, with the words of `TWI` (R152). -/
def gsAt (p : Coeffs) (pr : Pair) : Coeffs := combineAt gsOut (romWord .twi) p pr

/-- The body of the outer loop of R134: `m` groups of length `t`, distance `half = t div 2`. -/
def fwdStageWith (tw : Twiddles) (m t : Nat) (p : Coeffs) : Coeffs :=
  let half := t / 2
  (List.range m).foldl (fun p i =>
    (List.range half).foldl (fun p r =>
      combineAt ctOut tw p { lo := i * t + r, hi := i * t + r + half, rom := m + i }) p) p

/-- The outer loop of R134: `n` more iterations, then `t = half`, `m = 2 * m`. -/
def fwdLoopWith (tw : Twiddles) : Nat → Nat → Nat → Coeffs → Coeffs
  | 0, _, _, p => p
  | n + 1, m, t, p => fwdLoopWith tw n (2 * m) (t / 2) (fwdStageWith tw m t p)

/-- The loop nest of R134 over any twiddle words: 8 iterations from `t = 256`, `m = 1`. -/
def nttFwdWith (tw : Twiddles) (p : Coeffs) : Coeffs := fwdLoopWith tw LOGN 1 N p

/-- `NTT_FWD_fn` (R134). -/
def nttFwdFn (p : Coeffs) : Coeffs := nttFwdWith (romWord .twf) p

/-- The body of the outer loop of R157: `h` groups of stride `2 * t`, distance `t`. -/
def invStageWith (tw : Twiddles) (h t : Nat) (p : Coeffs) : Coeffs :=
  let dt := 2 * t
  (List.range h).foldl (fun p i =>
    (List.range t).foldl (fun p r =>
      combineAt gsOut tw p { lo := i * dt + r, hi := i * dt + r + t, rom := h + i }) p) p

/-- The outer loop of R157: `h = m div 2`; then `t = dt`, `m = h`. -/
def invLoopWith (tw : Twiddles) : Nat → Nat → Nat → Coeffs → Coeffs
  | 0, _, _, p => p
  | n + 1, m, t, p => invLoopWith tw n (m / 2) (2 * t) (invStageWith tw (m / 2) t p)

/-- The final pass of R157: every position times `NINV` (R155, R156). -/
def scaleAll (p : Coeffs) : Coeffs :=
  (List.range N).foldl (fun p j => setAt p j (scaleOut (p j))) p

/-- The loop nest of R157 over any twiddle words: 8 iterations from `t = 1`, `m = 256`, then the scaling pass. -/
def nttInvWith (tw : Twiddles) (p : Coeffs) : Coeffs := scaleAll (invLoopWith tw LOGN N 1 p)

/-- `NTT_INV_fn` (R157). -/
def nttInvFn (p : Coeffs) : Coeffs := nttInvWith (romWord .twi) p

/-- `NTT_FWD_fn` for one direction, `NTT_INV_fn` for the other (R37, R181). -/
def transformFn : Dir → Coeffs → Coeffs
  | .fwd => nttFwdFn
  | .inv => nttInvFn

/-- The forward butterflies in the sequencer's order, `K = 0, 1, ..., 1023` (R134, second form). -/
def fwdInSequence (p : Coeffs) : Coeffs :=
  (List.range NBFLY).foldl (fun p k => ctAt p (fwdPair (BitVec.ofNat 10 k))) p

/-- The inverse butterflies in the sequencer's order, then `SCALE` at `K = 0 .. 255` (R157, second form). -/
def invInSequence (p : Coeffs) : Coeffs :=
  scaleAll ((List.range NBFLY).foldl (fun p k => gsAt p (invPair (BitVec.ofNat 10 k))) p)

/-- The polynomial of a buffer evaluated modulo `Q` at the odd power of `PSI` of position `k` (R136). -/
def evalAtPoint (p : Coeffs) (k : Nat) : Nat :=
  (∑ a ∈ Finset.range N, p a * PSI ^ ((2 * brv LOGN k + 1) * a)) % Q

/-- The negacyclic convolution `NEGACYC(p, r)[k]`, the subtraction taken in `Z_Q` (R172). -/
def negacyc (p r : Coeffs) (k : Nat) : Nat :=
  let low : Int := ∑ a ∈ Finset.range N, ∑ b ∈ Finset.range N, if a + b = k then (p a * r b : Int) else 0
  let high : Int := ∑ a ∈ Finset.range N, ∑ b ∈ Finset.range N, if a + b = k + N then (p a * r b : Int) else 0
  ((low - high) % (Q : Int)).toNat

/-- `p + r`: elementwise `MODADD` (44_contract_properties.md, conventions). -/
def addFn (p r : Coeffs) : Coeffs := fun a => modadd (p a) (r a)

/-- `p * r`: elementwise `MODMUL`, the pointwise product the host computes (44_contract_properties.md, conventions). -/
def mulFn (p r : Coeffs) : Coeffs := fun a => modmul (p a) (r a)

/-- `c . p`: elementwise `MODMUL(c, p[a])` (44_contract_properties.md, conventions). -/
def smulFn (c : Nat) (p : Coeffs) : Coeffs := fun a => modmul c (p a)

/-- A valid buffer: 256 residues (00_scope.md section 7). -/
def validCoeffs (p : Coeffs) : Prop := ∀ a < N, p a < Q

end Sys2Proof.Machine
end

