-- ==== Sys2Proof/Machine/Validation.lean ====
section
/-! DEFINITION. What is checked of a twiddle ROM image: the table validity properties (41_twiddle_rom.md R115, R116) and
the validation duty of R119, which is the set of contract properties of 44_contract_properties.md. Every property is one
of arbitrary words of the two ROMs (R180); the block's own image is `romWord .twf` and `romWord .twi`. Definitions for
claims only. -/

namespace Sys2Proof.Machine

open Sys2Proof.Config

/-! ### Table validity -/

/-- Every word is a residue. -/
def residueWords (tw : Twiddles) : Prop := ∀ k, 1 ≤ k → k ≤ ROMDEPTH → tw k < Q

/-- Every word is in `[1, 12288]`, none is 0 (R116(f)). -/
def nonzeroWords (tw : Twiddles) : Prop := ∀ k, 1 ≤ k → k ≤ ROMDEPTH → 1 ≤ tw k ∧ tw k ≤ 12288

/-- The splitting property (R116(g)): address 1 holds a square root of -1, address `2k` a square root of the word at `k`
and address `2k + 1` a square root of its negative. -/
def splits (tw : Twiddles) : Prop :=
  modmul (tw 1) (tw 1) = 12288 ∧
  ∀ k, 1 ≤ k → k ≤ 127 →
    modmul (tw (2 * k)) (tw (2 * k)) = tw k ∧ modmul (tw (2 * k + 1)) (tw (2 * k + 1)) = 12289 - tw k

/-- All 255 words are distinct (R116(h)). -/
def distinctWords (tw : Twiddles) : Prop :=
  ∀ j k, 1 ≤ j → j ≤ ROMDEPTH → 1 ≤ k → k ≤ ROMDEPTH → tw j = tw k → j = k

/-- The words of the two ROMs are inverse to each other, address by address (R115). -/
def inverseWords (twf twi : Twiddles) : Prop := ∀ k, 1 ≤ k → k ≤ ROMDEPTH → modmul (twf k) (twi k) = 1

/-! ### The contract properties, over any image -/

/-- R170. -/
def roundTripLaw (twf twi : Twiddles) : Prop :=
  ∀ p : Coeffs, validCoeffs p → ∀ a < N, nttInvWith twi (nttFwdWith twf p) a = p a

/-- R177. -/
def otherRoundTripLaw (twf twi : Twiddles) : Prop :=
  ∀ p : Coeffs, validCoeffs p → ∀ a < N, nttFwdWith twf (nttInvWith twi p) a = p a

/-- R171, for one transform. -/
def linearLaw (f : Coeffs → Coeffs) : Prop :=
  ∀ (p r : Coeffs) (c : Nat), validCoeffs p → validCoeffs r → c < Q → ∀ a < N,
    f (addFn p r) a = addFn (f p) (f r) a ∧ f (smulFn c p) a = smulFn c (f p) a

/-- R172. -/
def convolutionLaw (twf twi : Twiddles) : Prop :=
  ∀ p r : Coeffs, validCoeffs p → validCoeffs r → ∀ k < N,
    nttInvWith twi (mulFn (nttFwdWith twf p) (nttFwdWith twf r)) k = negacyc p r k

/-- R173, for one transform. -/
def zeroLaw (f : Coeffs → Coeffs) : Prop := ∀ p : Coeffs, (∀ a < N, p a = 0) → ∀ a < N, f p a = 0

/-- R174. -/
def impulseLaw (twf : Twiddles) : Prop :=
  ∀ p : Coeffs, (∀ a < N, p a = if a = 0 then 1 else 0) → ∀ a < N, nttFwdWith twf p a = 1

/-- R175, for one transform. -/
def rangeLaw (f : Coeffs → Coeffs) : Prop := ∀ p : Coeffs, validCoeffs p → validCoeffs (f p)

/-- The laws that need nothing of the image beyond its words being residues (R180, first row). -/
def imageFreeLaws (twf twi : Twiddles) : Prop :=
  linearLaw (nttFwdWith twf) ∧ linearLaw (nttInvWith twi) ∧ zeroLaw (nttFwdWith twf) ∧ zeroLaw (nttInvWith twi) ∧
  impulseLaw twf ∧ rangeLaw (nttFwdWith twf) ∧ rangeLaw (nttInvWith twi)

/-- The validation of an image that R119 asks for instead of a comparison with the literal tables the source lacks: the
full set of contract properties. -/
def validated (twf twi : Twiddles) : Prop :=
  imageFreeLaws twf twi ∧ roundTripLaw twf twi ∧ otherRoundTripLaw twf twi ∧ convolutionLaw twf twi

/-! ### Images built by a wrong table rule -/

/-- The table rule of R111 with the root, the reversal width and the address offset left open: R111 itself is `PSI` or
`PSIINV`, width 8, offset 0. -/
def twgenWith (root width offset : Nat) : Twiddles := fun k => root ^ brv width (k + offset) % Q

/-- A regenerated image: the same width and offset in both ROMs, inverse roots. -/
structure TableRule where
  root : Nat
  rootInv : Nat
  width : Nat
  offset : Nat
deriving DecidableEq, Repr

/-- The words of `TWF` under a table rule. -/
def TableRule.twf (g : TableRule) : Twiddles := twgenWith g.root g.width g.offset

/-- The words of `TWI` under a table rule. -/
def TableRule.twi (g : TableRule) : Twiddles := twgenWith g.rootInv g.width g.offset

/-- One image for each error R119 names: the literal base 7 for the root (90_conflicts.md C1), a 7-bit reversal, the stage
offset one too high. -/
def wrongTableRules : List TableRule :=
  [{ root := G, rootInv := GINV, width := LOGN, offset := 0 },
   { root := PSI, rootInv := PSIINV, width := LOGN - 1, offset := 0 },
   { root := PSI, rootInv := PSIINV, width := LOGN, offset := 1 }]

end Sys2Proof.Machine
end

