-- ==== Sys2Proof/Safety.lean ====
section
/-! DEFINITION. What counts as a safe state and a safe run, in the terms claims use. -/

namespace Sys2Proof.Machine

open Sys2Proof.Config

/-- Word `a` has been written and is a residue (00_scope.md section 7, R21). -/
def isResidueAt (m : Memory) (a : Nat) : Bool :=
  match Memory.read m a with
  | some w => decide (w.toNat < Q)
  | none => false

/-- All 256 words are written and are residues: what a command needs to be accepted (R21(a), R212). -/
abbrev validBuffer (m : Memory) : Prop := ∀ a < N, isResidueAt m a = true

/-- The numbers of a buffer. Where every word is written the default is not used. -/
def wordsOf (m : Memory) : Coeffs := fun a => ((Memory.read m a).getD 0#14).toNat

/-- What holds of every state a run reaches (R20, R21, R26, R27, R28). -/
structure State.Inv (s : State) : Prop where
  /-- The buffer keeps its canonical form (R50). -/
  memory : Memory.wf s.buf
  /-- `(BUSY, DONE, ERR)` is one of the four legal combinations (R26). -/
  flags : flagsLegal s.busy s.done s.err = true
  /-- `BUSY = 1` exactly while a micro-op is pending (R28). -/
  busyPhase : s.busy = true ↔ s.phase ≠ .idle
  /-- In `IDLE`, `K = 0` (R28). -/
  idleK : s.phase = .idle → s.k = 0#10
  /-- `SCALE` runs in the inverse direction only, with `K` a buffer index (R28, R35). -/
  scaleK : s.phase = .scale → s.op = .inv ∧ s.k.toNat < N
  /-- While a transform runs every word is a residue (R21(b)). -/
  residues : s.busy = true → validBuffer s.buf
  /-- `ERRIDX` is 0 unless a command has faulted since reset (R27). -/
  erridxZero : s.err = false → s.erridx = 0#8

/-- `n` steps, stopping at the first fault or refusal. -/
def stepN : Nat → State → Host.Outcome State Fault Refusal
  | 0, s => .next s
  | n + 1, s => andThen (step s) fun t => stepN n t

/-- The micro-ops of a command: 1024 forward, 1024 + 256 inverse (R37, R221). -/
def microOpsOf : Dir → Nat
  | .fwd => NBFLY
  | .inv => NBFLY + N

/-- The registers that decide which micro-op runs next and at which addresses (R62). -/
def State.control (s : State) : Bool × Dir × Phase × BitVec 10 := (s.busy, s.op, s.phase, s.k)

/-- The script keeps the host's hands off the buffer while a transform runs (U1, R213). -/
def State.scriptOk (s : State) : Bool := scriptWf s.busy s.turns

end Sys2Proof.Machine
end

