-- ==== Sys2Proof/Certificates/Slice0/Obligations.lean ====
section
/-! DEFINITION. The statements for the provers. Each docstring names the rule it formalises. -/

open Sys2Proof Sys2Proof.Machine Sys2Proof.Config

/-! ### Encoding -/

/-- R71, R72, R73: encoding loses nothing, and the only words that are not the encoder's are read requests with another
`wdata` (U10). -/
def Obligations.DecodeInvertsEncode : Prop :=
  (∀ i : Instr, decode (encode i) = .ok i) ∧
  ∀ (w : PortWord) (i : Instr), decode w = .ok i →
    w = encode i ∨ ∃ (a : Addr) (v : Word), i = .hostRd a ∧ w = .bufreq (bufreqWord 0#1 a v)

/-- R76: `0b11` is the one pattern that is no instruction; it is refused, not a no-op; the sequencer never makes it. -/
def Obligations.OnlyReservedMicroOpIsRejected : Prop :=
  (∀ w : PortWord, (∃ r, decode w = .error r) ↔ w = .uop 0b11#2) ∧
  (∀ s : State, runWord (.uop 0b11#2) s = .refused (.badEncoding .reservedUop)) ∧
  ∀ (p : Phase) (d : Dir), uopCode p d ≠ some 0b11#2

/-- R72: the code is a function of `(PHASE, OP)`, and names the micro-op of that phase and direction. -/
def Obligations.SequencerIssuesMicroOpOfPhase : Prop :=
  ∀ d : Dir,
    uopCode .idle d = none ∧
    (∃ c, uopCode .scale d = some c ∧ decode (.uop c) = .ok .scale) ∧
    ∃ c, uopCode .bfly d = some c ∧ c.getLsbD 0 = d.bit.getLsbD 0 ∧
      decode (.uop c) = .ok (match d with | .fwd => .bflyCt | .inv => .bflyGs)

/-- 95_test_vectors.md sections 5.1 and 5.2, R71, R72, R73: words written out bit by bit. -/
def Obligations.SpecWordsDecodeAsListed : Prop :=
  decode (.cmd 0b0#1) = .ok .nttFwd ∧
  decode (.cmd 0b1#1) = .ok .nttInv ∧
  decode (.uop 0b00#2) = .ok .bflyCt ∧
  decode (.uop 0b01#2) = .ok .bflyGs ∧
  decode (.uop 0b10#2) = .ok .scale ∧
  decode (.bufreq 0x3FC000#23) = .ok (.hostRd 255#8) ∧
  decode (.bufreq 0x003FFF#23) = .ok (.hostRd 0#8) ∧
  decode (.bufreq 0x41F001#23) = .ok (.hostWr 7#8 12289#14) ∧
  decode (.bufreq 0x5A1234#23) = .ok (.hostWr 104#8 4660#14) ∧
  decode (.bufreq 0x7FFFFF#23) = .ok (.hostWr 255#8 16383#14)

/-! ### The step -/

/-- A step whose turn carries a decodable word runs that instruction, on the state with at most its turn taken. -/
def Obligations.StepRunsDecodedInstruction : Prop :=
  ∀ (s s0 : State) (w : PortWord) (i : Instr), fetch s = .word w s0 → decode w = .ok i →
    step s = exec i s0 ∧ (s0 = s ∨ ∃ x, s.turns = x :: s0.turns ∧ s0 = { s with turns := s0.turns })

/-- R31, R72: the host's command and request are what the next step runs; while `BUSY = 1` an engine turn (given, or
left when no turn stands) runs the sequencer's micro-op. -/
def Obligations.TurnsPresentTheirWords : Prop :=
  (∀ (s : State) (op : BitVec 1) (ts : List Turn), s.turns = .host (.command op) :: ts →
    fetch s = .word (.cmd op) { s with turns := ts }) ∧
  (∀ (s : State) (r : BitVec 23) (ts : List Turn), s.turns = .host (.request r) :: ts →
    fetch s = .word (.bufreq r) { s with turns := ts }) ∧
  (∀ (s : State) (c : BitVec 2), s.turns = [] → s.busy = true → uopCode s.phase s.op = some c →
    fetch s = .word (.uop c) s) ∧
  ∀ (s : State) (c : BitVec 2) (ts : List Turn), s.turns = .engine :: ts → s.busy = true →
    uopCode s.phase s.op = some c → fetch s = .word (.uop c) { s with turns := ts }

/-- R31, R26, R27: a status read is always enabled, answers the four outputs and changes nothing of the block. -/
def Obligations.StatusReadAnswersOutputs : Prop :=
  ∀ (s : State) (ts : List Turn), s.turns = .host .readStatus :: ts →
    step s = .next { s with
      turns := ts, replies := .status s.busy s.done s.err s.erridx :: s.replies }

/-- R38, R210, R211: `RESET` from every state, one step; every word counts as unwritten. -/
def Obligations.ResetStepGivesResetValues : Prop :=
  (∀ (s : State) (ts : List Turn), s.turns = .host .reset :: ts →
    ∃ t, step s = .next t ∧ (∀ a, Memory.read t.buf a = none) ∧ t.op = .fwd ∧ t.busy = false ∧ t.done = false ∧
      t.err = false ∧ t.erridx = 0#8 ∧ t.phase = .idle ∧ t.k = 0#10 ∧ t.turns = ts ∧ t.replies = s.replies) ∧
  State.reset.buf = [] ∧ State.reset.op = .fwd ∧ State.reset.busy = false ∧ State.reset.done = false ∧
  State.reset.err = false ∧ State.reset.erridx = 0#8 ∧ State.reset.phase = .idle ∧ State.reset.k = 0#10

/-- R203, R38, R75: an idle block with no move scheduled stays as it is; a `WAIT` ends on `DONE` or `ERR`, lets the
engine step while `BUSY = 1`, and polls on otherwise. What an empty schedule means is the model's choice
(notes/assumptions/1.md). -/
def Obligations.IdleAndWaitSteps : Prop :=
  (∀ s : State, s.turns = [] → s.busy = false → step s = .next s) ∧
  (∀ (s : State) (ts : List Turn), s.turns = .host .wait :: ts → (s.done = true ∨ s.err = true) →
    step s = .next { s with turns := ts }) ∧
  (∀ (s : State) (ts : List Turn), s.turns = .host .wait :: ts → s.done = false → s.err = false →
    s.busy = false → step s = .next s) ∧
  ∀ (s : State) (ts : List Turn) (c : BitVec 2), s.turns = .host .wait :: ts → s.done = false → s.err = false →
    s.busy = true → uopCode s.phase s.op = some c → step s = runWord (.uop c) s

/-! ### Host buffer accesses -/

/-- R56: with `BUSY = 0`, `HOST_WR(a, v)` stores any 14-bit value and changes no other word and no register. -/
def Obligations.HostWriteStoresItsWord : Prop :=
  ∀ (s : State) (a : Addr) (v : Word), s.busy = false →
    ∃ t, exec (.hostWr a v) s = .next t ∧ Memory.read t.buf a.toNat = some v ∧
      (∀ b, b ≠ a.toNat → Memory.read t.buf b = Memory.read s.buf b) ∧ t = { s with buf := t.buf }

/-- R57: with `BUSY = 0`, `HOST_RD(a)` answers the word and changes no state of the block; it writes nothing. -/
def Obligations.HostReadAnswersItsWord : Prop :=
  ∀ (s : State) (a : Addr) (w : Word), s.busy = false → Memory.read s.buf a.toNat = some w →
    exec (.hostRd a) s = .next { s with replies := .word w :: s.replies }

/-- R54, R55, R60: a read returns the last value written to that word, a write to another word does not disturb it,
and writing a value twice is writing it once. -/
def Obligations.HostReadReturnsLastWrite : Prop :=
  ∀ (s t : State) (a : Addr) (v : Word), exec (.hostWr a v) s = .next t →
    exec (.hostRd a) t = .next { t with replies := .word v :: t.replies } ∧
    exec (.hostWr a v) t = .next t ∧
    ∀ (b : Addr) (w : Word), b ≠ a → Memory.read s.buf b.toNat = some w →
      exec (.hostRd b) t = .next { t with replies := .word w :: t.replies }

/-- R31, U1, U2: moves that are not enabled have no step. The refusals' names, and that `BUSY` is looked at before
`ERR`, are the model's (notes/assumptions/4.md, 19.md). -/
def Obligations.MovesNotEnabledAreRefused : Prop :=
  (∀ (s : State) (a : Addr) (v : Word), s.busy = true →
    exec (.hostRd a) s = .refused .bufferAccessWhileBusy ∧
    exec (.hostWr a v) s = .refused .bufferAccessWhileBusy ∧
    exec .nttFwd s = .refused .commandWhileBusy ∧ exec .nttInv s = .refused .commandWhileBusy) ∧
  ∀ s : State, s.busy = false → s.err = true →
    exec .nttFwd s = .refused .commandWhileErr ∧ exec .nttInv s = .refused .commandWhileErr

/-- R38, R57, U3: an unwritten word has no value to answer or to transform; the model refuses (notes/assumptions/3.md). -/
def Obligations.UnwrittenWordsAreRefused : Prop :=
  (∀ (s : State) (a : Addr), s.busy = false → Memory.read s.buf a.toNat = none →
    exec (.hostRd a) s = .refused (.unwrittenWord a.toNat)) ∧
  ∀ (s : State) (a : Nat), s.busy = false → s.err = false → a < N → Memory.read s.buf a = none →
    (∀ b < a, Memory.read s.buf b ≠ none) →
    exec .nttFwd s = .refused (.unwrittenWord a) ∧ exec .nttInv s = .refused (.unwrittenWord a)

/-! ### The primitives -/

/-- R91: `MODRED(x)` is the unique remainder; the rule's values. -/
def Obligations.ModRedIsUniqueRemainder : Prop :=
  (∀ x : Nat, modred x < Q ∧ (∃ k, x = k * Q + modred x) ∧
    ∀ r k, r < Q → x = k * Q + r → r = modred x) ∧
  modred 0 = 0 ∧ modred 12288 = 12288 ∧ modred 12289 = 0 ∧ modred 12290 = 1 ∧ modred 24576 = 12287 ∧
  modred 24577 = 12288 ∧ modred 150994944 = 1 ∧ modred 302002176 = 1 ∧ modred (2 ^ 29 - 1) = 1368 ∧
  modred 100000 = 1688

/-- R92: addition of residues is one conditional subtraction; the rule's corner cases; commutative. -/
def Obligations.ModAddIsConditionalSubtraction : Prop :=
  (∀ a b, a < Q → b < Q →
    modadd a b = modred (a + b) ∧ a + b ≤ 24576 ∧ modadd a b = (if a + b < Q then a + b else a + b - Q) ∧
    modadd a b = modadd b a ∧ modadd a 0 = a) ∧
  modadd 0 0 = 0 ∧ modadd 12288 1 = 0 ∧ modadd 12288 12288 = 12287 ∧ modadd 6144 6145 = 0 ∧ modadd 12000 500 = 211

/-- R93: biased subtraction of residues; the rule's corner cases; what swapping the operands gives. -/
def Obligations.ModSubIsBiasedDifference : Prop :=
  (∀ a b, a < Q → b < Q →
    (biasedDiff a b : Int) = (a : Int) - b + 12289 ∧ 1 ≤ biasedDiff a b ∧ biasedDiff a b ≤ 24577 ∧
    modsub a b = modred (biasedDiff a b) ∧ modsub a b = (if b ≤ a then a - b else a + Q - b) ∧
    modsub b a = modred (Q - modsub a b) ∧ modsub a a = 0 ∧ biasedDiff a a = Q ∧ modsub a 0 = a) ∧
  modsub 0 0 = 0 ∧ modsub 0 1 = 12288 ∧ modsub 0 12288 = 1 ∧ modsub 12288 0 = 12288 ∧ biasedDiff 12288 0 = 24577 ∧
  modsub 100 600 = 11789

/-- R94, R98(d), R98(f): the product reduced once; the unreduced difference gives the word of the reduced one. -/
def Obligations.ModMulReducesOnce : Prop :=
  (∀ a b, a ≤ 24577 → b < Q →
    modmul a b = (a * b) % Q ∧ a * b ≤ 302002176 ∧ (Q ≤ a → modmul a b = modmul (a - Q) b) ∧
    modmul 0 b = 0 ∧ modmul a 0 = 0 ∧ modmul a 1 = modred a ∧ modmul 12289 b = 0) ∧
  (∀ a b, a < Q → b < Q → modmul a b = modmul b a) ∧
  modmul 12288 12288 = 1 ∧ modmul 24577 12288 = 1 ∧ modmul 256 12241 = 1 ∧ modmul 7 8778 = 1 ∧
  modmul 2401 11813 = 1 ∧ modmul 5678 7143 = 4254

/-- R98(c): on residues the primitives are the operations of `Z_Q`, and equal classes are equal words. -/
def Obligations.PrimitivesAreRingOperations : Prop :=
  (∀ a b, a < Q → b < Q →
    (modadd a b : ZMod Q) = (a : ZMod Q) + b ∧ (modsub a b : ZMod Q) = (a : ZMod Q) - b ∧
    (modmul a b : ZMod Q) = (a : ZMod Q) * b ∧ modadd a b < Q ∧ modsub a b < Q ∧ modmul a b < Q) ∧
  ∀ a b, a < Q → b < Q → (a : ZMod Q) = (b : ZMod Q) → a = b

/-- R96: the largest intermediate of each operation and the width that holds it. -/
def Obligations.IntermediatesFitTheDatapath : Prop :=
  ∀ u v s, u < Q → v < Q → s < Q →
    u + v ≤ 24576 ∧ u + v < 2 ^ 15 ∧ biasedDiff u v ≤ 24577 ∧ biasedDiff u v < 2 ^ 15 ∧
    v * s ≤ 150994944 ∧ v * s < 2 ^ 28 ∧ u * NINV ≤ 150417408 ∧ u * NINV < 2 ^ 28 ∧
    biasedDiff u v * s ≤ 302002176 ∧ biasedDiff u v * s < 2 ^ WACC

/-- R95 with 40_modular_arithmetic.md section 4: the Barrett circuit gives the same word on every 29-bit input. -/
def Obligations.BarrettCircuitEqualsModRed : Prop :=
  ∀ x, x < 2 ^ WACC → barrett x = modred x

/-! ### The ROM image -/

/-- R111, R112, R113, R23: the tables word for word are the table rule's, and addresses 1 to 255 are all there is. -/
def Obligations.RomImageFollowsTableRule : Prop :=
  (∀ k, 1 ≤ k → k ≤ 255 → romWord? .twf k = some (twgenFwd k) ∧ romWord? .twi k = some (twgenInv k)) ∧
  (∀ sp, romWord? sp 0 = none) ∧ ∀ sp k, 256 ≤ k → romWord? sp k = none

/-- R115: `MODMUL(TWF[k], TWI[k]) = 1` for every address. -/
def Obligations.RomWordsAreMutuallyInverse : Prop :=
  ∀ k, 1 ≤ k → k ≤ 255 → ∃ f g, romWord? .twf k = some f ∧ romWord? .twi k = some g ∧ modmul f g = 1

/-- R116(a), (b), (c), (e), (f), (g), (h): table validity, the splitting property and distinct words, for both tables.
R116(d) is the source's false clause, which a model must not state. -/
def Obligations.RomImageIsValid : Prop :=
  modmul G GINV = 1 ∧ modmul N NINV = 1 ∧ PSI = G ^ 4 % Q ∧ PSI ^ 256 % Q = Q - 1 ∧ PSI ^ 512 % Q = 1 ∧
  modmul PSI PSIINV = 1 ∧ PSIINV = GINV ^ 4 % Q ∧
  ∀ sp, sp ≠ .buf → nonzeroWords (romWord sp) ∧ splits (romWord sp) ∧ distinctWords (romWord sp)

/-- R110: the 8-bit reversal of a ROM address, per stage. -/
def Obligations.RomExponentPerStage : Prop :=
  ∀ l i, l ≤ 7 → i < 2 ^ l →
    romExponent (2 ^ l + i) = 2 ^ (7 - l) + 2 ^ (8 - l) * brv l i ∧
    romExponent (2 ^ l + i) = (N / (2 * 2 ^ l)) * (2 * brv l i + 1)

/-! ### Addresses of the micro-ops -/

/-- R131, R130, R53: the forward addresses as `{i, 0, r}`, `{i, 1, r}`, `{1, i}`, always in range and different. -/
def Obligations.ForwardAddressesFromPosition : Prop :=
  ∀ k : BitVec 10, ∃ i r,
    i < 2 ^ (k.toNat / 128) ∧ r < 2 ^ (7 - k.toNat / 128) ∧
    k.toNat % 128 = i * 2 ^ (7 - k.toNat / 128) + r ∧
    (fwdPair k).lo = i * 2 ^ (8 - k.toNat / 128) + r ∧
    (fwdPair k).hi = (fwdPair k).lo + 2 ^ (7 - k.toNat / 128) ∧
    (fwdPair k).rom = 2 ^ (k.toNat / 128) + i ∧
    (fwdPair k).lo < (fwdPair k).hi ∧ (fwdPair k).hi ≤ 255 ∧ 1 ≤ (fwdPair k).rom ∧ (fwdPair k).rom ≤ 255

/-- R151, R150, R53: the inverse addresses, likewise. -/
def Obligations.InverseAddressesFromPosition : Prop :=
  ∀ k : BitVec 10, ∃ i r,
    i < 2 ^ (7 - k.toNat / 128) ∧ r < 2 ^ (k.toNat / 128) ∧
    k.toNat % 128 = i * 2 ^ (k.toNat / 128) + r ∧
    (invPair k).lo = i * 2 ^ (k.toNat / 128 + 1) + r ∧
    (invPair k).hi = (invPair k).lo + 2 ^ (k.toNat / 128) ∧
    (invPair k).rom = 2 ^ (7 - k.toNat / 128) + i ∧
    (invPair k).lo < (invPair k).hi ∧ (invPair k).hi ≤ 255 ∧ 1 ≤ (invPair k).rom ∧ (invPair k).rom ≤ 255

/-- R130, R150: in each stage every buffer position belongs to exactly one pair. -/
def Obligations.StageTouchesEveryWordOnce : Prop :=
  ∀ l x, l < 8 → x < 256 →
    (∃! b, b < 128 ∧ (x = (fwdPairAt l b).lo ∨ x = (fwdPairAt l b).hi)) ∧
    ∃! b, b < 128 ∧ (x = (invPairAt l b).lo ∨ x = (invPairAt l b).hi)

/-- R53: every ROM address is read at least once per transform. -/
def Obligations.EveryRomAddressIsRead : Prop :=
  ∀ a, 1 ≤ a → a ≤ 255 → (∃ k : BitVec 10, (fwdPair k).rom = a) ∧ ∃ k : BitVec 10, (invPair k).rom = a

/-- R150: inverse stage `l'` visits the pairs and ROM addresses of forward stage `7 - l'`. -/
def Obligations.InverseStagesRunForwardStagesBackwards : Prop :=
  ∀ l b, l < 8 → b < 128 → invPairAt l b = fwdPairAt (7 - l) b

/-! ### The micro-ops -/

/-- R132, R33, R36: what `BFLY_CT` writes, that it writes nothing else, and how the sequencer goes on. -/
def Obligations.ButterflyCtComputesAndAdvances : Prop :=
  ∀ (s : State) (u w : Word), s.busy = true → s.phase = .bfly → s.op = .fwd →
    Memory.read s.buf (fwdPair s.k).lo = some u → u.toNat < Q →
    Memory.read s.buf (fwdPair s.k).hi = some w → w.toNat < Q →
    ∃ t tw, exec .bflyCt s = .next t ∧ romWord? .twf (fwdPair s.k).rom = some tw ∧
      Memory.read t.buf (fwdPair s.k).lo = some (BitVec.ofNat 14 ((u.toNat + w.toNat * tw % Q) % Q)) ∧
      Memory.read t.buf (fwdPair s.k).hi = some (BitVec.ofNat 14 ((u.toNat + Q - w.toNat * tw % Q) % Q)) ∧
      (∀ a, a ≠ (fwdPair s.k).lo → a ≠ (fwdPair s.k).hi → Memory.read t.buf a = Memory.read s.buf a) ∧
      (s.k ≠ 1023#10 → t = { s with buf := t.buf, k := s.k + 1#10 }) ∧
      (s.k = 1023#10 → t = { s with buf := t.buf, busy := false, done := true, phase := .idle, k := 0#10 })

/-- R152, R34: what `BFLY_GS` writes, that it writes nothing else, and how the sequencer goes on. -/
def Obligations.ButterflyGsComputesAndAdvances : Prop :=
  ∀ (s : State) (u v : Word), s.busy = true → s.phase = .bfly → s.op = .inv →
    Memory.read s.buf (invPair s.k).lo = some u → u.toNat < Q →
    Memory.read s.buf (invPair s.k).hi = some v → v.toNat < Q →
    ∃ t tw, exec .bflyGs s = .next t ∧ romWord? .twi (invPair s.k).rom = some tw ∧
      Memory.read t.buf (invPair s.k).lo = some (BitVec.ofNat 14 ((u.toNat + v.toNat) % Q)) ∧
      Memory.read t.buf (invPair s.k).hi = some (BitVec.ofNat 14 ((u.toNat + Q - v.toNat) * tw % Q)) ∧
      (∀ a, a ≠ (invPair s.k).lo → a ≠ (invPair s.k).hi → Memory.read t.buf a = Memory.read s.buf a) ∧
      (s.k ≠ 1023#10 → t = { s with buf := t.buf, k := s.k + 1#10 }) ∧
      (s.k = 1023#10 → t = { s with buf := t.buf, phase := .scale, k := 0#10 })

/-- R155, R35, R36: what `SCALE` writes, that it writes nothing else, and how the sequencer goes on. -/
def Obligations.ScaleComputesAndAdvances : Prop :=
  ∀ (s : State) (x : Word), s.busy = true → s.phase = .scale → s.k.toNat < N →
    Memory.read s.buf s.k.toNat = some x → x.toNat < Q →
    ∃ t, exec .scale s = .next t ∧
      Memory.read t.buf s.k.toNat = some (BitVec.ofNat 14 (x.toNat * 12241 % Q)) ∧
      (∀ a, a ≠ s.k.toNat → Memory.read t.buf a = Memory.read s.buf a) ∧
      (s.k ≠ 255#10 → t = { s with buf := t.buf, k := s.k + 1#10 }) ∧
      (s.k = 255#10 → t = { s with buf := t.buf, busy := false, done := true, phase := .idle, k := 0#10 })

/-- R33, R34, R35: a micro-op runs only under its enabling condition; the refusal is the model's
(notes/assumptions/5.md). -/
def Obligations.MicroOpsNeedTheirPhase : Prop :=
  ∀ s : State,
    (¬ (s.busy = true ∧ s.phase = .bfly ∧ s.op = .fwd) → exec .bflyCt s = .refused .microOpNotEnabled) ∧
    (¬ (s.busy = true ∧ s.phase = .bfly ∧ s.op = .inv) → exec .bflyGs s = .refused .microOpNotEnabled) ∧
    (¬ (s.busy = true ∧ s.phase = .scale) → exec .scale s = .refused .microOpNotEnabled)

/-- R179: with twiddles that multiply to 1, each butterfly undoes the other up to a factor 2. -/
def Obligations.ButterfliesUndoEachOther : Prop :=
  ∀ u w s s', u < Q → w < Q → s < Q → s' < Q → modmul s s' = 1 →
    gsOut (ctOut u w s).1 (ctOut u w s).2 s' = (2 * u % Q, 2 * w % Q) ∧
    ctOut (gsOut u w s').1 (gsOut u w s').2 s = (2 * u % Q, 2 * w % Q)

/-- R133(b), R154(b): on a buffer of residues the butterflies of one stage commute. -/
def Obligations.ButterfliesOfAStageCommute : Prop :=
  ∀ (p : Coeffs) (l b c : Nat), validCoeffs p → l < 8 → b < 128 → c < 128 →
    ctAt (ctAt p (fwdPairAt l b)) (fwdPairAt l c) = ctAt (ctAt p (fwdPairAt l c)) (fwdPairAt l b) ∧
    gsAt (gsAt p (invPairAt l b)) (invPairAt l c) = gsAt (gsAt p (invPairAt l c)) (invPairAt l b)

/-! ### Command acceptance and the fault -/

/-- R32, R135, R158: on 256 residues a command is accepted: the engine takes over, `BUF` and all else unchanged. -/
def Obligations.CommandAcceptedOnValidBuffer : Prop :=
  ∀ s : State, s.busy = false → s.err = false → validBuffer s.buf →
    exec .nttFwd s = .next { s with op := .fwd, done := false, busy := true, phase := .bfly, k := 0#10 } ∧
    exec .nttInv s = .next { s with op := .inv, done := false, busy := true, phase := .bfly, k := 0#10 }

/-- R190, R193, R194, R32: `InvalidResidue` on the lowest word of 12289 or more, for both commands; nothing else
changes. -/
def Obligations.InvalidResidueReportsLowestIndex : Prop :=
  ∀ (s : State) (i : Addr) (w : Word), s.busy = false → s.err = false →
    (∀ a < N, Memory.read s.buf a ≠ none) →
    Memory.read s.buf i.toNat = some w → 12289 ≤ w.toNat →
    (∀ j < i.toNat, ∀ x, Memory.read s.buf j = some x → x.toNat < 12289) →
    exec .nttFwd s = .next { s with op := .fwd, done := false, err := true, erridx := i } ∧
    exec .nttInv s = .next { s with op := .inv, done := false, err := true, erridx := i }

/-- R195, R27: no step but `RESET` clears `ERR` or changes `ERRIDX` while `ERR = 1`, and while `ERR = 1` no transform
starts. -/
def Obligations.ErrIsStickyUntilReset : Prop :=
  ∀ s t : State, step s = .next t → s.err = true →
    (∃ ts, s.turns = .host .reset :: ts) ∨
    (t.err = true ∧ t.erridx = s.erridx ∧ (t.busy = true → s.busy = true))

/-- R25, R26, R27, R190, R191: who writes the registers. `OP` and `ERRIDX` and `ERR` change in a command's acceptance or
in `RESET` only; `DONE` and `BUSY` there or at a transform's completion. -/
def Obligations.RegistersChangeOnlyByTheirWriters : Prop :=
  ∀ s t : State, step s = .next t →
    (∃ ts, s.turns = .host .reset :: ts) ∨
    (∃ op ts, s.turns = .host (.command op) :: ts ∧ s.busy = false ∧ s.err = false) ∨
    (t.op = s.op ∧ t.err = s.err ∧ t.erridx = s.erridx ∧
      ((t.busy = s.busy ∧ t.done = s.done) ∨ (s.busy = true ∧ t.busy = false ∧ t.done = true)))

/-! ### Invariants and whole-machine rules -/

/-- R38 with R20, R26, R27, R28: the invariant holds after reset. -/
def Obligations.ResetSatisfiesInvariant : Prop := State.reset.Inv

/-- R20, R21(b), R26, R27, R28: every step keeps the invariant, from every state that meets it. -/
def Obligations.StepKeepsInvariant : Prop :=
  ∀ s t : State, s.Inv → step s = .next t → t.Inv

/-- R53, R191, R192: no step accesses an address that does not exist, and an engine step always goes on. That an empty
schedule and a `WAIT` are the engine's turn is the model's choice (notes/assumptions/1.md, 16.md). -/
def Obligations.EngineStepsNeverStop : Prop :=
  ∀ s : State, s.Inv →
    (∀ r, step s ≠ .fault r) ∧
    (s.busy = true → (s.turns = [] ∨ (∃ ts, s.turns = .engine :: ts) ∨ ∃ ts, s.turns = .host .wait :: ts) →
      ∃ t, step s = .next t)

/-- R62: which micro-op runs next and at which addresses never depends on the buffer. -/
def Obligations.ControlIgnoresTheBuffer : Prop :=
  ∀ s s' t t' : State, s.Inv → s'.Inv → s.busy = true → s.control = s'.control → s.turns = s'.turns →
    step s = .next t → step s' = .next t' → t.control = t'.control

/-- R37, R59: while a transform runs, a host move other than `RESET` changes neither the buffer nor the sequencer
(`WAIT` is the engine's turn). -/
def Obligations.HostCannotDisturbTransform : Prop :=
  ∀ (s t : State) (m : HostMove) (ts : List Turn), s.busy = true → s.turns = .host m :: ts →
    m ≠ .reset → m ≠ .wait → step s = .next t →
    m = .readStatus ∧ t.buf = s.buf ∧ t.control = s.control ∧ t.done = s.done ∧ t.err = s.err ∧ t.erridx = s.erridx

/-- U1, R213: a script that passes the ownership check never makes a move that is refused because a transform runs. -/
def Obligations.CheckedScriptsKeepHandsOff : Prop :=
  ∀ s : State, s.Inv → s.scriptOk = true →
    step s ≠ .refused .bufferAccessWhileBusy ∧ step s ≠ .refused .commandWhileBusy ∧
    ∀ t, step s = .next t → t.scriptOk = true

/-- R201: a step of one instance leaves every other instance alone. -/
def Obligations.InstancesAreIndependent : Prop :=
  ∀ (sys sys' : List State) (i : Fin sys.length), systemStep sys i = .next sys' →
    sys'.length = sys.length ∧ (∃ t, step sys[i] = .next t ∧ sys'[i.val]? = some t) ∧
    ∀ j, j ≠ i.val → sys'[j]? = sys[j]?

/-! ### Whole transforms -/

/-- R134, R157 ("Equivalently"): the loop nests are the sequencer's order. -/
def Obligations.SequencerOrderIsTheLoopNest : Prop :=
  ∀ p : Coeffs, validCoeffs p → nttFwdFn p = fwdInSequence p ∧ nttInvFn p = invInSequence p

/-- R37, R135, R158, R181, R36: a command on a valid buffer completes after exactly 1024 or 1280 engine steps, `BUSY`
being 1 until then, with the buffer transformed and no other element touched. It completes because the engine runs when
nothing is scheduled: the premise of R37, built into the model's step (notes/assumptions/1.md). -/
def Obligations.CommandRunsToCompletion : Prop :=
  ∀ (s : State) (d : Dir), s.Inv → s.busy = false → s.err = false → validBuffer s.buf →
    s.turns = [moveCommand d] →
    (∃ m, stepN (1 + microOpsOf d) s = .next { s with buf := m, op := d, done := true, turns := [] } ∧
      Memory.wf m ∧
      ∀ a < N, ∃ w, Memory.read m a = some w ∧ w.toNat = transformFn d (wordsOf s.buf) a) ∧
    ∀ n < microOpsOf d, ∃ t, stepN (1 + n) s = .next t ∧ t.busy = true ∧ t.done = false ∧ t.err = false

/-- R181: the result depends on the buffer and the command alone. Both runs have the engine step when nothing is scheduled
(notes/assumptions/1.md). -/
def Obligations.ResultIgnoresHistory : Prop :=
  ∀ (s s' t t' : State) (d : Dir), s.Inv → s'.Inv → s.busy = false → s'.busy = false → s.buf = s'.buf →
    s.turns = [moveCommand d] → s'.turns = [moveCommand d] →
    stepN (1 + microOpsOf d) s = .next t → stepN (1 + microOpsOf d) s' = .next t' →
    t.buf = t'.buf ∧ t.op = t'.op ∧ t.busy = t'.busy ∧ t.done = t'.done ∧ t.err = t'.err ∧
      t.erridx = t'.erridx ∧ t.phase = t'.phase ∧ t.k = t'.k

/-- R170: `INV(FWD(p)) = p` for every valid buffer. -/
def Obligations.InverseUndoesForward : Prop :=
  ∀ p : Coeffs, validCoeffs p → ∀ a < N, nttInvFn (nttFwdFn p) a = p a

/-- R177: `FWD(INV(p)) = p` for every valid buffer, and `FWD` is injective on valid buffers. -/
def Obligations.ForwardUndoesInverse : Prop :=
  (∀ p : Coeffs, validCoeffs p → ∀ a < N, nttFwdFn (nttInvFn p) a = p a) ∧
  ∀ p r : Coeffs, validCoeffs p → validCoeffs r → (∀ a < N, nttFwdFn p a = nttFwdFn r a) → ∀ a < N, p a = r a

/-- R171: both transforms are linear. -/
def Obligations.TransformsAreLinear : Prop :=
  ∀ (p r : Coeffs) (c : Nat), validCoeffs p → validCoeffs r → c < Q → ∀ a < N,
    nttFwdFn (addFn p r) a = addFn (nttFwdFn p) (nttFwdFn r) a ∧
    nttFwdFn (smulFn c p) a = smulFn c (nttFwdFn p) a ∧
    nttInvFn (addFn p r) a = addFn (nttInvFn p) (nttInvFn r) a ∧
    nttInvFn (smulFn c p) a = smulFn c (nttInvFn p) a

/-- R172: the pointwise product of two forward transforms comes back as the negacyclic convolution. -/
def Obligations.PointwiseProductIsNegacyclicConvolution : Prop :=
  ∀ p r : Coeffs, validCoeffs p → validCoeffs r → ∀ k < N,
    nttInvFn (mulFn (nttFwdFn p) (nttFwdFn r)) k = negacyc p r k

/-- R173: both transforms keep the zero buffer; every butterfly maps `(0, 0)` to `(0, 0)`. -/
def Obligations.TransformsPreserveZero : Prop :=
  (∀ p : Coeffs, (∀ a < N, p a = 0) → ∀ a < N, nttFwdFn p a = 0 ∧ nttInvFn p a = 0) ∧
  (∀ s, ctOut 0 0 s = (0, 0) ∧ gsOut 0 0 s = (0, 0)) ∧ scaleOut 0 = 0

/-- R174: the unit impulse becomes all ones, and all ones comes back as the unit impulse. -/
def Obligations.UnitImpulseBecomesAllOnes : Prop :=
  (∀ p : Coeffs, (∀ a < N, p a = if a = 0 then 1 else 0) → ∀ a < N, nttFwdFn p a = 1) ∧
  ∀ p : Coeffs, (∀ a < N, p a = 1) → ∀ a < N, nttInvFn p a = if a = 0 then 1 else 0

/-- R175: every word of either transform of a valid buffer is a residue. -/
def Obligations.TransformsReturnResidues : Prop :=
  ∀ p : Coeffs, validCoeffs p → validCoeffs (nttFwdFn p) ∧ validCoeffs (nttInvFn p)

/-- R136: position `k` of the forward transform holds the value at `PSI^(2*brv_8(k)+1)`. -/
def Obligations.ForwardEvaluatesInBitReversedOrder : Prop :=
  ∀ p : Coeffs, validCoeffs p → ∀ k < N, nttFwdFn p k = evalAtPoint p k

/-! ### Other ROM images -/

/-- R180: what each law needs of the ROM image, for every image. Row 3 is here the convolution law; the splitting
property with R115 is enough for it. -/
def Obligations.LawsNeedOnlyTheirTableProperties : Prop :=
  ∀ twf twi : Twiddles, residueWords twf → residueWords twi →
    imageFreeLaws twf twi ∧
    (inverseWords twf twi → roundTripLaw twf twi ∧ otherRoundTripLaw twf twi ∧ (splits twf → validated twf twi))

/-- R119: the convolution law detects a wrong root, a wrong reversal width and a wrong stage offset, and the round trip
detects none of them. Every image with inverse words passes both round trips, and fails the convolution law where address
1 does not hold a square root of -1. Which three wrong images stand for the errors is the model's choice
(notes/assumptions/8.md). -/
def Obligations.ConvolutionDetectsWrongTables : Prop :=
  (∀ twf twi : Twiddles, residueWords twf → residueWords twi → inverseWords twf twi →
    modmul (twf 1) (twf 1) ≠ 12288 →
    roundTripLaw twf twi ∧ otherRoundTripLaw twf twi ∧ ¬ convolutionLaw twf twi) ∧
  ∀ g ∈ wrongTableRules, roundTripLaw g.twf g.twi ∧ otherRoundTripLaw g.twf g.twi ∧ ¬ convolutionLaw g.twf g.twi
end

