-- ==== Sys2Proof/Laws/State.lean ====
section
/-! SUPPORT. One lemma per field per register update of Machine/Ops.lean: what the update gives the field, or that it
leaves it. -/

namespace Sys2Proof.Machine

variable (s : State)

/-! ### `State.putBuf` -/

@[simp] theorem State.putBuf_buf (m : Memory) : (s.putBuf m).buf = m := rfl
@[simp] theorem State.putBuf_op (m : Memory) : (s.putBuf m).op = s.op := rfl
@[simp] theorem State.putBuf_busy (m : Memory) : (s.putBuf m).busy = s.busy := rfl
@[simp] theorem State.putBuf_done (m : Memory) : (s.putBuf m).done = s.done := rfl
@[simp] theorem State.putBuf_err (m : Memory) : (s.putBuf m).err = s.err := rfl
@[simp] theorem State.putBuf_erridx (m : Memory) : (s.putBuf m).erridx = s.erridx := rfl
@[simp] theorem State.putBuf_phase (m : Memory) : (s.putBuf m).phase = s.phase := rfl
@[simp] theorem State.putBuf_k (m : Memory) : (s.putBuf m).k = s.k := rfl
@[simp] theorem State.putBuf_turns (m : Memory) : (s.putBuf m).turns = s.turns := rfl
@[simp] theorem State.putBuf_replies (m : Memory) : (s.putBuf m).replies = s.replies := rfl

/-! ### `State.latchCommand` -/

@[simp] theorem State.latchCommand_buf (d : Dir) : (s.latchCommand d).buf = s.buf := rfl
@[simp] theorem State.latchCommand_op (d : Dir) : (s.latchCommand d).op = d := rfl
@[simp] theorem State.latchCommand_busy (d : Dir) : (s.latchCommand d).busy = s.busy := rfl
@[simp] theorem State.latchCommand_done (d : Dir) : (s.latchCommand d).done = false := rfl
@[simp] theorem State.latchCommand_err (d : Dir) : (s.latchCommand d).err = s.err := rfl
@[simp] theorem State.latchCommand_erridx (d : Dir) : (s.latchCommand d).erridx = s.erridx := rfl
@[simp] theorem State.latchCommand_phase (d : Dir) : (s.latchCommand d).phase = s.phase := rfl
@[simp] theorem State.latchCommand_k (d : Dir) : (s.latchCommand d).k = s.k := rfl
@[simp] theorem State.latchCommand_turns (d : Dir) : (s.latchCommand d).turns = s.turns := rfl
@[simp] theorem State.latchCommand_replies (d : Dir) : (s.latchCommand d).replies = s.replies := rfl

/-! ### `State.start` -/

@[simp] theorem State.start_buf : (s.start).buf = s.buf := rfl
@[simp] theorem State.start_op : (s.start).op = s.op := rfl
@[simp] theorem State.start_busy : (s.start).busy = true := rfl
@[simp] theorem State.start_done : (s.start).done = s.done := rfl
@[simp] theorem State.start_err : (s.start).err = s.err := rfl
@[simp] theorem State.start_erridx : (s.start).erridx = s.erridx := rfl
@[simp] theorem State.start_phase : (s.start).phase = .bfly := rfl
@[simp] theorem State.start_k : (s.start).k = 0#10 := rfl
@[simp] theorem State.start_turns : (s.start).turns = s.turns := rfl
@[simp] theorem State.start_replies : (s.start).replies = s.replies := rfl

/-! ### `State.advance` -/

@[simp] theorem State.advance_buf : (s.advance).buf = s.buf := rfl
@[simp] theorem State.advance_op : (s.advance).op = s.op := rfl
@[simp] theorem State.advance_busy : (s.advance).busy = s.busy := rfl
@[simp] theorem State.advance_done : (s.advance).done = s.done := rfl
@[simp] theorem State.advance_err : (s.advance).err = s.err := rfl
@[simp] theorem State.advance_erridx : (s.advance).erridx = s.erridx := rfl
@[simp] theorem State.advance_phase : (s.advance).phase = s.phase := rfl
@[simp] theorem State.advance_k : (s.advance).k = s.k + 1#10 := rfl
@[simp] theorem State.advance_turns : (s.advance).turns = s.turns := rfl
@[simp] theorem State.advance_replies : (s.advance).replies = s.replies := rfl

/-! ### `State.toScale` -/

@[simp] theorem State.toScale_buf : (s.toScale).buf = s.buf := rfl
@[simp] theorem State.toScale_op : (s.toScale).op = s.op := rfl
@[simp] theorem State.toScale_busy : (s.toScale).busy = s.busy := rfl
@[simp] theorem State.toScale_done : (s.toScale).done = s.done := rfl
@[simp] theorem State.toScale_err : (s.toScale).err = s.err := rfl
@[simp] theorem State.toScale_erridx : (s.toScale).erridx = s.erridx := rfl
@[simp] theorem State.toScale_phase : (s.toScale).phase = .scale := rfl
@[simp] theorem State.toScale_k : (s.toScale).k = 0#10 := rfl
@[simp] theorem State.toScale_turns : (s.toScale).turns = s.turns := rfl
@[simp] theorem State.toScale_replies : (s.toScale).replies = s.replies := rfl

/-! ### `State.complete` -/

@[simp] theorem State.complete_buf : (s.complete).buf = s.buf := rfl
@[simp] theorem State.complete_op : (s.complete).op = s.op := rfl
@[simp] theorem State.complete_busy : (s.complete).busy = false := rfl
@[simp] theorem State.complete_done : (s.complete).done = true := rfl
@[simp] theorem State.complete_err : (s.complete).err = s.err := rfl
@[simp] theorem State.complete_erridx : (s.complete).erridx = s.erridx := rfl
@[simp] theorem State.complete_phase : (s.complete).phase = .idle := rfl
@[simp] theorem State.complete_k : (s.complete).k = 0#10 := rfl
@[simp] theorem State.complete_turns : (s.complete).turns = s.turns := rfl
@[simp] theorem State.complete_replies : (s.complete).replies = s.replies := rfl

/-! ### `State.reply` -/

@[simp] theorem State.reply_buf (r : Reply) : (s.reply r).buf = s.buf := rfl
@[simp] theorem State.reply_op (r : Reply) : (s.reply r).op = s.op := rfl
@[simp] theorem State.reply_busy (r : Reply) : (s.reply r).busy = s.busy := rfl
@[simp] theorem State.reply_done (r : Reply) : (s.reply r).done = s.done := rfl
@[simp] theorem State.reply_err (r : Reply) : (s.reply r).err = s.err := rfl
@[simp] theorem State.reply_erridx (r : Reply) : (s.reply r).erridx = s.erridx := rfl
@[simp] theorem State.reply_phase (r : Reply) : (s.reply r).phase = s.phase := rfl
@[simp] theorem State.reply_k (r : Reply) : (s.reply r).k = s.k := rfl
@[simp] theorem State.reply_turns (r : Reply) : (s.reply r).turns = s.turns := rfl
@[simp] theorem State.reply_replies (r : Reply) : (s.reply r).replies = r :: s.replies := rfl

/-! ### `State.putTurns` -/

@[simp] theorem State.putTurns_buf (ts : List Turn) : (s.putTurns ts).buf = s.buf := rfl
@[simp] theorem State.putTurns_op (ts : List Turn) : (s.putTurns ts).op = s.op := rfl
@[simp] theorem State.putTurns_busy (ts : List Turn) : (s.putTurns ts).busy = s.busy := rfl
@[simp] theorem State.putTurns_done (ts : List Turn) : (s.putTurns ts).done = s.done := rfl
@[simp] theorem State.putTurns_err (ts : List Turn) : (s.putTurns ts).err = s.err := rfl
@[simp] theorem State.putTurns_erridx (ts : List Turn) : (s.putTurns ts).erridx = s.erridx := rfl
@[simp] theorem State.putTurns_phase (ts : List Turn) : (s.putTurns ts).phase = s.phase := rfl
@[simp] theorem State.putTurns_k (ts : List Turn) : (s.putTurns ts).k = s.k := rfl
@[simp] theorem State.putTurns_turns (ts : List Turn) : (s.putTurns ts).turns = ts := rfl
@[simp] theorem State.putTurns_replies (ts : List Turn) : (s.putTurns ts).replies = s.replies := rfl

/-! ### `State.raiseInvalidResidue` -/

@[simp] theorem State.raiseInvalidResidue_buf (i : Nat) : (s.raiseInvalidResidue i).buf = s.buf := rfl
@[simp] theorem State.raiseInvalidResidue_op (i : Nat) : (s.raiseInvalidResidue i).op = s.op := rfl
@[simp] theorem State.raiseInvalidResidue_busy (i : Nat) : (s.raiseInvalidResidue i).busy = s.busy := rfl
@[simp] theorem State.raiseInvalidResidue_done (i : Nat) : (s.raiseInvalidResidue i).done = s.done := rfl
@[simp] theorem State.raiseInvalidResidue_err (i : Nat) : (s.raiseInvalidResidue i).err = true := rfl
@[simp] theorem State.raiseInvalidResidue_erridx (i : Nat) : (s.raiseInvalidResidue i).erridx = BitVec.ofNat 8 i := rfl
@[simp] theorem State.raiseInvalidResidue_phase (i : Nat) : (s.raiseInvalidResidue i).phase = s.phase := rfl
@[simp] theorem State.raiseInvalidResidue_k (i : Nat) : (s.raiseInvalidResidue i).k = s.k := rfl
@[simp] theorem State.raiseInvalidResidue_turns (i : Nat) : (s.raiseInvalidResidue i).turns = s.turns := rfl
@[simp] theorem State.raiseInvalidResidue_replies (i : Nat) : (s.raiseInvalidResidue i).replies = s.replies := rfl

/-! ### `State.applyReset` -/

@[simp] theorem State.applyReset_buf : (s.applyReset).buf = [] := rfl
@[simp] theorem State.applyReset_op : (s.applyReset).op = .fwd := rfl
@[simp] theorem State.applyReset_busy : (s.applyReset).busy = false := rfl
@[simp] theorem State.applyReset_done : (s.applyReset).done = false := rfl
@[simp] theorem State.applyReset_err : (s.applyReset).err = false := rfl
@[simp] theorem State.applyReset_erridx : (s.applyReset).erridx = 0#8 := rfl
@[simp] theorem State.applyReset_phase : (s.applyReset).phase = .idle := rfl
@[simp] theorem State.applyReset_k : (s.applyReset).k = 0#10 := rfl
@[simp] theorem State.applyReset_turns : (s.applyReset).turns = s.turns := rfl
@[simp] theorem State.applyReset_replies : (s.applyReset).replies = s.replies := rfl

/-! ### `State.reset` -/

@[simp] theorem State.reset_buf : State.reset.buf = [] := rfl
@[simp] theorem State.reset_op : State.reset.op = .fwd := rfl
@[simp] theorem State.reset_busy : State.reset.busy = false := rfl
@[simp] theorem State.reset_done : State.reset.done = false := rfl
@[simp] theorem State.reset_err : State.reset.err = false := rfl
@[simp] theorem State.reset_erridx : State.reset.erridx = 0#8 := rfl
@[simp] theorem State.reset_phase : State.reset.phase = .idle := rfl
@[simp] theorem State.reset_k : State.reset.k = 0#10 := rfl
@[simp] theorem State.reset_turns : State.reset.turns = [] := rfl
@[simp] theorem State.reset_replies : State.reset.replies = [] := rfl

/-- Two states with equal fields are equal. -/
theorem State.ext_fields {s t : State} (h1 : s.buf = t.buf) (h2 : s.op = t.op) (h3 : s.busy = t.busy)
    (h4 : s.done = t.done) (h5 : s.err = t.err) (h6 : s.erridx = t.erridx) (h7 : s.phase = t.phase)
    (h8 : s.k = t.k) (h9 : s.turns = t.turns) (h10 : s.replies = t.replies) : s = t := by
  cases s; cases t; simp_all

end Sys2Proof.Machine
end

