-- ==== Sys2Proof/Laws/Memory.lean ====
section
/-! SUPPORT. The laws of the buffer: read after write, writes elsewhere, and that every memory operation keeps the
canonical form. -/

namespace Sys2Proof.Machine

open Sys2Proof.Config

@[simp] theorem Memory.read_nil (a : Nat) : Memory.read [] a = none := rfl

theorem Memory.read_cons (b : Nat) (w : Word) (m : Memory) (a : Nat) :
    Memory.read ((b, w) :: m) a = if a = b then some w else Memory.read m a := rfl

/-- A read after a write to the same address gives the value written. -/
@[simp] theorem Memory.read_write_same (m : Memory) (a : Nat) (v : Word) :
    Memory.read (Memory.write m a v) a = some v := by
  induction m with
  | nil => simp [Memory.write, Memory.read]
  | cons c m ih =>
    obtain ⟨b, w⟩ := c
    simp only [Memory.write]
    split
    · simp [Memory.read]
    · split
      · simp [Memory.read]
      · rename_i h
        simp [Memory.read, h, ih]

/-- A write leaves every other address alone. -/
@[simp] theorem Memory.read_write_other (m : Memory) {a b : Nat} (v : Word) (h : b ≠ a) :
    Memory.read (Memory.write m a v) b = Memory.read m b := by
  induction m with
  | nil => simp [Memory.write, Memory.read, h]
  | cons c m ih =>
    obtain ⟨e, w⟩ := c
    simp only [Memory.write]
    split
    · simp [Memory.read, h]
    · split
      · rename_i hae
        subst hae
        simp [Memory.read, h]
      · simp only [Memory.read, ih]

theorem Memory.read_write (m : Memory) (a b : Nat) (v : Word) :
    Memory.read (Memory.write m a v) b = if b = a then some v else Memory.read m b := by
  split
  · rename_i h; subst h; simp
  · rename_i h; simp [h]

theorem Memory.mem_write {m : Memory} {a : Nat} {v : Word} {c : Nat × Word}
    (h : c ∈ Memory.write m a v) : c = (a, v) ∨ c ∈ m := by
  induction m with
  | nil => simpa [Memory.write] using h
  | cons d m ih =>
    obtain ⟨b, w⟩ := d
    simp only [Memory.write] at h
    split at h
    · simpa using h
    · split at h
      · rcases List.mem_cons.1 h with h | h
        · exact .inl h
        · exact .inr (List.mem_cons_of_mem _ h)
      · rcases List.mem_cons.1 h with h | h
        · exact .inr (h ▸ List.mem_cons_self)
        · exact (ih h).imp_right (List.mem_cons_of_mem _)

@[simp] theorem Memory.wf_nil : Memory.wf [] := by simp [Memory.wf]

/-- A write keeps the canonical form. -/
theorem Memory.write_wf {m : Memory} {a : Nat} (v : Word) (hm : Memory.wf m) (ha : a < N) :
    Memory.wf (Memory.write m a v) := by
  obtain ⟨hp, hb⟩ := hm
  refine ⟨?_, fun c hc => ?_⟩
  · clear hb
    induction m with
    | nil => simp [Memory.write]
    | cons d m ih =>
      obtain ⟨b, w⟩ := d
      obtain ⟨hd, hm⟩ := List.pairwise_cons.1 hp
      simp only [Memory.write]
      split
      · rename_i hab
        refine List.pairwise_cons.2 ⟨fun c hc => ?_, hp⟩
        rcases List.mem_cons.1 hc with rfl | hc
        · exact hab
        · exact lt_trans hab (hd c hc)
      · split
        · rename_i hab
          subst hab
          exact List.pairwise_cons.2 ⟨hd, hm⟩
        · refine List.pairwise_cons.2 ⟨fun c hc => ?_, ih hm⟩
          rcases Memory.mem_write hc with rfl | hc
          · show b < a
            omega
          · exact hd c hc
  · rcases Memory.mem_write hc with rfl | hc
    · exact ha
    · exact hb c hc

theorem Memory.read_eq_none_of_lt {m : Memory} {a : Nat} (h : ∀ c ∈ m, a < c.1) : Memory.read m a = none := by
  induction m with
  | nil => rfl
  | cons d m ih =>
    obtain ⟨b, w⟩ := d
    have hb : a < b := h _ List.mem_cons_self
    rw [Memory.read_cons, if_neg (by omega)]
    exact ih fun c hc => h c (List.mem_cons_of_mem _ hc)

/-- In canonical form, memories that read alike are equal lists. -/
theorem Memory.ext_read {m n : Memory} (hm : Memory.wf m) (hn : Memory.wf n)
    (h : ∀ a, Memory.read m a = Memory.read n a) : m = n := by
  replace hm := hm.1
  replace hn := hn.1
  induction m generalizing n with
  | nil =>
    cases n with
    | nil => rfl
    | cons d n => simpa [Memory.read] using h d.1
  | cons c m ih =>
    obtain ⟨a, v⟩ := c
    obtain ⟨hc, hm'⟩ := List.pairwise_cons.1 hm
    cases n with
    | nil => simpa [Memory.read] using h a
    | cons d n =>
      obtain ⟨b, w⟩ := d
      obtain ⟨hd, hn'⟩ := List.pairwise_cons.1 hn
      have hab : a = b := by
        rcases lt_trichotomy a b with hlt | rfl | hlt
        · have := h a
          rw [Memory.read_cons, if_pos rfl, Memory.read_eq_none_of_lt] at this
          · simp at this
          · intro c hc
            rcases List.mem_cons.1 hc with rfl | hc
            · exact hlt
            · exact lt_trans hlt (hd c hc)
        · rfl
        · have := h b
          rw [eq_comm, Memory.read_cons, if_pos rfl, Memory.read_eq_none_of_lt] at this
          · simp at this
          · intro c hc'
            rcases List.mem_cons.1 hc' with rfl | hc'
            · exact hlt
            · exact lt_trans hlt (hc c hc')
      subst hab
      have hvw : v = w := by simpa [Memory.read_cons] using h a
      subst hvw
      congr 1
      refine ih (hm := hm') (hn := hn') fun x => ?_
      by_cases hx : x = a
      · subst hx
        rw [Memory.read_eq_none_of_lt hc, Memory.read_eq_none_of_lt hd]
      · simpa [Memory.read_cons, hx] using h x

theorem memWrite_wf {m : Memory} {a : Nat} (v : Nat) (hm : Memory.wf m) (ha : a < N) :
    Memory.wf (memWrite m a v) := Memory.write_wf _ hm ha

theorem read_memWrite (m : Memory) (a b v : Nat) :
    Memory.read (memWrite m a v) b = if b = a then some (BitVec.ofNat W v) else Memory.read m b :=
  Memory.read_write ..

/-- The two writes of a butterfly keep the canonical form. -/
theorem writePair_wf {m : Memory} {p : Pair} (out : Nat × Nat) (hm : Memory.wf m) (hlo : p.lo < N)
    (hhi : p.hi < N) : Memory.wf (writePair m p out) := memWrite_wf _ (memWrite_wf _ hm hlo) hhi

/-- What every address reads as after the two writes of a butterfly. -/
theorem read_writePair (m : Memory) (p : Pair) (out : Nat × Nat) (a : Nat) :
    Memory.read (writePair m p out) a =
      if a = p.hi then some (BitVec.ofNat W out.2)
      else if a = p.lo then some (BitVec.ofNat W out.1) else Memory.read m a := by
  simp only [writePair, read_memWrite]

/-- A cell for every address, in order, is in canonical form. -/
theorem wf_map_range (f : Nat → Word) : Memory.wf ((List.range N).map fun a => (a, f a)) := by
  refine ⟨List.pairwise_map.2 (List.pairwise_lt_range), fun c hc => ?_⟩
  obtain ⟨a, ha, rfl⟩ := List.mem_map.1 hc
  exact List.mem_range.1 ha

theorem read_map_of_mem (f : Nat → Word) (l : List Nat) {a : Nat} (h : a ∈ l) :
    Memory.read (l.map fun a => (a, f a)) a = some (f a) := by
  induction l with
  | nil => simp at h
  | cons b l ih =>
    rw [List.map_cons, Memory.read_cons]
    split
    · rename_i hab; rw [hab]
    · exact ih (by simpa [‹¬ a = b›] using h)

theorem read_map_range (f : Nat → Word) {a : Nat} (h : a < N) :
    Memory.read ((List.range N).map fun a => (a, f a)) a = some (f a) :=
  read_map_of_mem f _ (List.mem_range.2 h)

/-- A loaded buffer is in canonical form. -/
theorem preload_wf (m : Memory) : Memory.wf (preload m) := wf_map_range _

/-- Loading leaves the written words and gives every other word 0. -/
theorem read_preload (m : Memory) {a : Nat} (h : a < N) :
    Memory.read (preload m) a = some ((Memory.read m a).getD 0#14) := read_map_range _ h

end Sys2Proof.Machine
end

