-- ==== Sys2Proof/Laws/Ops.lean ====
section
/-! SUPPORT. One lemma per shared operation saying everything it can do when it goes on. -/

namespace Sys2Proof.Machine

open Sys2Proof.Config

section AndThen

variable {α β : Type} {x : Host.Outcome α Fault Refusal} {f : α → Host.Outcome β Fault Refusal} {b : β}

@[simp] theorem andThen_next (a : α) (f : α → Host.Outcome β Fault Refusal) :
    andThen (.next a) f = f a := rfl

@[simp] theorem andThen_fault (r : Fault) (f : α → Host.Outcome β Fault Refusal) :
    andThen (.fault r) f = .fault r := rfl

@[simp] theorem andThen_refused (r : Refusal) (f : α → Host.Outcome β Fault Refusal) :
    andThen (.refused r) f = .refused r := rfl

/-- A sequence goes on exactly when both parts do. -/
theorem andThen_eq_next : andThen x f = .next b ↔ ∃ a, x = .next a ∧ f a = .next b := by
  cases x <;> simp

/-- A sequence whose last part always goes on. -/
theorem andThen_next_eq_next {g : α → β} :
    andThen x (fun a => .next (g a)) = .next b ↔ ∃ a, x = .next a ∧ b = g a := by
  cases x <;> simp [eq_comm]

/-- A sequence faults exactly when one of its parts does. -/
theorem andThen_eq_fault {r : Fault} :
    andThen x f = .fault r ↔ x = .fault r ∨ ∃ a, x = .next a ∧ f a = .fault r := by
  cases x <;> simp

end AndThen

section Reads

variable {m : Memory} {a : Nat}

theorem memRead_eq_next {w : Word} : memRead m a = .next w ↔ a < N ∧ Memory.read m a = some w := by
  unfold memRead
  split
  · cases Memory.read m a <;> simp_all
  · simp_all

theorem memRead_eq_fault {r : Fault} : memRead m a = .fault r ↔ ¬ a < N ∧ r = .addressAbsent .buf a := by
  unfold memRead
  split
  · cases Memory.read m a <;> simp_all
  · simp_all [eq_comm]

theorem readResidue_eq_next {u : Nat} :
    readResidue m a = .next u ↔ a < N ∧ ∃ w, Memory.read m a = some w ∧ w.toNat < Q ∧ u = w.toNat := by
  unfold readResidue
  simp only [andThen_eq_next, memRead_eq_next]
  constructor
  · rintro ⟨w, ⟨ha, hw⟩, h⟩
    split at h
    · exact ⟨ha, w, hw, ‹_›, by simpa using h.symm⟩
    · simp at h
  · rintro ⟨ha, w, hw, hq, rfl⟩
    exact ⟨w, ⟨ha, hw⟩, by simp [hq]⟩

theorem readResidue_eq_fault {r : Fault} :
    readResidue m a = .fault r ↔ ¬ a < N ∧ r = .addressAbsent .buf a := by
  unfold readResidue
  simp only [andThen_eq_fault, memRead_eq_fault]
  constructor
  · rintro (h | ⟨w, -, h⟩)
    · exact h
    · split at h <;> simp at h
  · exact .inl

theorem romRead_eq_next {sp : Space} {k v : Nat} : romRead sp k = .next v ↔ romWord? sp k = some v := by
  unfold romRead
  cases romWord? sp k <;> simp

@[simp] theorem twfTable_length : twfTable.length = ROMDEPTH := by
  simp only [twfTable, List.length_append]; rfl

@[simp] theorem twiTable_length : twiTable.length = ROMDEPTH := by
  simp only [twiTable, List.length_append]; rfl

/-- ROM addresses 1 to 255 exist. -/
theorem romWord?_eq_some {sp : Space} (hsp : sp ≠ .buf) {k : Nat} (h1 : 1 ≤ k) (h2 : k ≤ ROMDEPTH) :
    romWord? sp k = some (romWord sp k) := by
  have hlen : (romTable sp).length = ROMDEPTH := by cases sp <;> simp_all [romTable]
  obtain ⟨n, rfl⟩ : ∃ n, k = n + 1 := ⟨k - 1, by omega⟩
  have hn : n < (romTable sp).length := by omega
  simp [romWord, romWord?, hn]

end Reads

/-- A butterfly goes on exactly when both operands are residues and the ROM address exists. -/
theorem butterfly_eq_next {m m' : Memory} {rom : Space} {p : Pair} {comb : Nat → Nat → Nat → Nat × Nat} :
    butterfly m rom p comb = .next m' ↔
      ∃ u w tw, readResidue m p.lo = .next u ∧ readResidue m p.hi = .next w ∧ romWord? rom p.rom = some tw ∧
        m' = writePair m p (comb u w tw) := by
  simp only [butterfly, andThen_eq_next, romRead_eq_next, Host.Outcome.next.injEq]
  constructor
  · rintro ⟨u, hu, w, hw, tw, ht, h⟩
    exact ⟨u, w, tw, hu, hw, ht, h.symm⟩
  · rintro ⟨u, w, tw, hu, hw, ht, h⟩
    exact ⟨u, hu, w, hw, tw, ht, h.symm⟩

theorem scaleWord_eq_next {m m' : Memory} {j : Nat} :
    scaleWord m j = .next m' ↔ ∃ x, readResidue m j = .next x ∧ m' = memWrite m j (scaleOut x) := by
  exact andThen_next_eq_next

section Checks

variable {m : Memory}

theorem firstUnwritten_eq_none : firstUnwritten m = none ↔ ∀ a < N, (Memory.read m a).isSome := by
  simp only [firstUnwritten, List.find?_eq_none, List.mem_range, Bool.not_eq_true, Option.isNone_eq_false_iff]

theorem firstUnwritten_eq_some {i : Nat} :
    firstUnwritten m = some i ↔ i < N ∧ Memory.read m i = none ∧ ∀ j < i, (Memory.read m j).isSome := by
  simp only [firstUnwritten, List.find?_range_eq_some, List.mem_range, Option.isNone_iff_eq_none,
    Bool.not_eq_true', Option.isNone_eq_false_iff]
  constructor
  · rintro ⟨h1, h2, h3⟩
    exact ⟨h2, h1, h3⟩
  · rintro ⟨h1, h2, h3⟩
    exact ⟨h2, h1, h3⟩

theorem firstInvalid_eq_none : firstInvalid m = none ↔ ∀ a < N, isInvalidAt m a = false := by
  simp only [firstInvalid, List.find?_eq_none, List.mem_range, Bool.not_eq_true]

/-- The residue check reports the lowest invalid address. -/
theorem firstInvalid_eq_some {i : Nat} :
    firstInvalid m = some i ↔ i < N ∧ isInvalidAt m i = true ∧ ∀ j < i, isInvalidAt m j = false := by
  simp only [firstInvalid, List.find?_range_eq_some, List.mem_range, Bool.not_eq_true']
  constructor
  · rintro ⟨h1, h2, h3⟩
    exact ⟨h2, h1, h3⟩
  · rintro ⟨h1, h2, h3⟩
    exact ⟨h2, h1, h3⟩

theorem isInvalidAt_eq_true {a : Nat} :
    isInvalidAt m a = true ↔ ∃ w, Memory.read m a = some w ∧ Q ≤ w.toNat := by
  unfold isInvalidAt
  cases Memory.read m a <;> simp

theorem isResidueAt_eq_true {a : Nat} :
    isResidueAt m a = true ↔ ∃ w, Memory.read m a = some w ∧ w.toNat < Q := by
  unfold isResidueAt
  cases Memory.read m a <;> simp

/-- A command's two checks pass exactly on a valid buffer. -/
theorem checks_pass_iff_validBuffer :
    firstUnwritten m = none ∧ firstInvalid m = none ↔ validBuffer m := by
  rw [firstUnwritten_eq_none, firstInvalid_eq_none, ← forall₂_and]
  refine forall₂_congr fun a _ => ?_
  unfold isInvalidAt isResidueAt
  cases Memory.read m a <;> simp

/-- In a valid buffer every operand read goes on with the buffer's number. -/
theorem readResidue_of_validBuffer (h : validBuffer m) {a : Nat} (ha : a < N) :
    readResidue m a = .next (wordsOf m a) := by
  obtain ⟨w, hw, hq⟩ := isResidueAt_eq_true.1 (h a ha)
  exact readResidue_eq_next.2 ⟨ha, w, hw, hq, by simp [wordsOf, hw]⟩

end Checks

section Meanings

variable {s t : State}

/-- Everything command acceptance can do when it goes on (R32). -/
theorem acceptCommand_eq_next {d : Dir} :
    acceptCommand d s = .next t ↔
      s.busy = false ∧ s.err = false ∧ firstUnwritten s.buf = none ∧
        ((∃ i, firstInvalid s.buf = some i ∧ t = (s.latchCommand d).raiseInvalidResidue i) ∨
         (firstInvalid s.buf = none ∧ t = (s.latchCommand d).start)) := by
  unfold acceptCommand
  cases s.busy <;> cases s.err <;> simp
  cases firstUnwritten s.buf <;> simp
  cases firstInvalid s.buf <;> simp [eq_comm]

theorem execHostRd_eq_next {a : Addr} :
    execHostRd a s = .next t ↔
      s.busy = false ∧ ∃ w, Memory.read s.buf a.toNat = some w ∧ t = s.reply (.word w) := by
  have ha : a.toNat < N := a.isLt
  unfold execHostRd
  cases s.busy <;> simp [andThen_next_eq_next, memRead_eq_next, ha]

theorem execHostWr_eq_next {a : Addr} {v : Word} :
    execHostWr a v s = .next t ↔ s.busy = false ∧ t = s.putBuf (Memory.write s.buf a.toNat v) := by
  unfold execHostWr
  cases s.busy <;> simp [eq_comm]

theorem execBflyCt_eq_next :
    execBflyCt s = .next t ↔
      (s.busy = true ∧ s.phase = .bfly ∧ s.op = .fwd) ∧
        ∃ m, butterfly s.buf .twf (fwdPair s.k) ctOut = .next m ∧ t = afterCt (s.putBuf m) := by
  unfold execBflyCt
  split
  · simp [andThen_next_eq_next, *]
  · simp [*]

theorem execBflyGs_eq_next :
    execBflyGs s = .next t ↔
      (s.busy = true ∧ s.phase = .bfly ∧ s.op = .inv) ∧
        ∃ m, butterfly s.buf .twi (invPair s.k) gsOut = .next m ∧ t = afterGs (s.putBuf m) := by
  unfold execBflyGs
  split
  · simp [andThen_next_eq_next, *]
  · simp [*]

theorem execScale_eq_next :
    execScale s = .next t ↔
      (s.busy = true ∧ s.phase = .scale) ∧
        ∃ m, scaleWord s.buf (scaleIndex s.k) = .next m ∧ t = afterScale (s.putBuf m) := by
  unfold execScale
  split
  · simp [andThen_next_eq_next, *]
  · simp [*]

end Meanings

end Sys2Proof.Machine
end

