-- ==== Sys2Proof/Laws/PerInstr.lean ====
section
/-! SUPPORT. Statements made once per constructor of `Instr`. -/

namespace Sys2Proof.Laws.TableBits

/-- The encoder's word has the width and the fixed bits of the instruction's row of spec/opcode_table.json. -/
def Statement (i : Instr) : Prop := (tableRow i).matchesWord (encode i) = true

theorem nttFwd : Statement .nttFwd := rfl

theorem nttInv : Statement .nttInv := rfl

theorem bflyCt : Statement .bflyCt := rfl

theorem bflyGs : Statement .bflyGs := rfl

theorem scale : Statement .scale := rfl

/-- The bits of a BUFREQ word as a number: `we`, `addr` and `wdata` at their places (R73). -/
theorem bufreqWord_toNat (we : BitVec 1) (a : Addr) (v : Word) :
    (bufreqWord we a v).toNat = we.toNat * 2 ^ 22 + a.toNat * 2 ^ 14 + v.toNat := by
  have h : (bufreqWord we a v).toNat = (we.toNat <<< 8 ||| a.toNat) <<< 14 ||| v.toNat := by
    unfold bufreqWord
    rw [BitVec.toNat_append, BitVec.toNat_append]
  rw [h, ← Nat.shiftLeft_add_eq_or_of_lt v.isLt, ← Nat.shiftLeft_add_eq_or_of_lt a.isLt]
  simp only [Nat.shiftLeft_eq]
  omega

/-- Bit 22 of a BUFREQ word, masked out, is `we` (R73). -/
theorem bufreqWord_and_mask (we : BitVec 1) (a : Addr) (v : Word) :
    (bufreqWord we a v).toNat &&& 0x400000 = we.toNat * 2 ^ 22 := by
  have hw := we.isLt
  have ha := a.isLt
  have hv := v.isLt
  have h : (bufreqWord we a v).toNat &&& 2 ^ 22 = ((bufreqWord we a v).toNat.testBit 22).toNat * 2 ^ 22 := by
    rw [Nat.and_two_pow, Nat.mul_comm]
  have hd : (we.toNat * 2 ^ 22 + a.toNat * 2 ^ 14 + v.toNat) / 2 ^ 22 = we.toNat := by omega
  rw [show (0x400000 : Nat) = 2 ^ 22 from rfl, h, bufreqWord_toNat, Nat.testBit_eq_decide_div_mod_eq, hd]
  have : we.toNat = 0 ∨ we.toNat = 1 := by omega
  rcases this with h | h <;> simp [h]

theorem hostRd (a : Addr) : Statement (.hostRd a) := by
  simp [Statement, TableRow.matchesWord, tableRow, encode, PortWord.width, PortWord.bits, bufreqWord_and_mask]

theorem hostWr (a : Addr) (v : Word) : Statement (.hostWr a v) := by
  simp [Statement, TableRow.matchesWord, tableRow, encode, PortWord.width, PortWord.bits, bufreqWord_and_mask]

end Sys2Proof.Laws.TableBits
end

