-- ==== Sys2Proof/Laws/Step.lean ====
section
/-! SUPPORT. What one step can do, said once. -/

namespace Sys2Proof.Machine

variable {s t : State}

/-- The engine's turn runs a micro-op, waits, or is stuck in a state no run reaches. -/
theorem engineTurn_cases (s : State) :
    (s.busy = false ∧ engineTurn s = .nothing s) ∨
    (s.busy = true ∧ s.phase = .idle ∧ engineTurn s = .stuck) ∨
    (s.busy = true ∧ ∃ c, uopCode s.phase s.op = some c ∧ engineTurn s = .word (.uop c) s) := by
  unfold engineTurn
  cases hb : s.busy <;> cases hp : s.phase <;> cases ho : s.op <;> simp [uopCode]

/-- Everything a step that goes on can have done: run the instruction of a port word, answer a status read, reset, or
change nothing but the schedule. -/
theorem step_eq_next :
    step s = .next t ↔
      (∃ w s0 i, fetch s = .word w s0 ∧ decode w = .ok i ∧ exec i s0 = .next t) ∨
      (∃ s0, fetch s = .status s0 ∧ t = s0.reply (statusReply s0)) ∨
      (∃ s0, fetch s = .reset s0 ∧ t = s0.applyReset) ∨
      fetch s = .nothing t := by
  unfold step runWord
  cases fetch s with
  | word w s0 => cases h : decode w <;> simp [h]
  | status s0 => simp [eq_comm]
  | reset s0 => simp [eq_comm]
  | nothing s0 => simp
  | stuck => simp

/-- The step whose turn is a script's command is that command's acceptance. -/
theorem step_moveCommand {d : Dir} {ts : List Turn} (h : s.turns = moveCommand d :: ts) :
    step s = acceptCommand d (s.putTurns ts) := by
  cases d <;> simp only [step, fetch, h, moveCommand] <;> rfl

/-- The state of a fetched turn. -/
def Fetched.state? : Fetched → Option State
  | .word _ s => some s
  | .status s => some s
  | .reset s => some s
  | .nothing s => some s
  | .stuck => none

/-- Taking a turn changes the schedule only. -/
theorem fetch_keeps_block {s0 : State} (h : (fetch s).state? = some s0) :
    s0 = s ∨ ∃ x, s.turns = x :: s0.turns ∧ s0 = s.putTurns s0.turns := by
  have hE : ∀ u v : State, (engineTurn u).state? = some v → v = u := by
    intro u v hv
    rcases engineTurn_cases u with ⟨-, h⟩ | ⟨-, -, h⟩ | ⟨-, c, -, h⟩ <;> rw [h] at hv <;>
      simp [Fetched.state?] at hv <;> exact hv.symm
  unfold fetch at h
  split at h
  case h_7 ts hts =>
    split at h
    · right
      simp only [Fetched.state?, Option.some.injEq] at h
      subst h
      exact ⟨_, by simpa using hts, by simp⟩
    · exact .inl (hE _ _ h)
  case h_1 => exact .inl (hE _ _ h)
  case h_2 ts hts =>
    right
    have := hE _ _ h
    subst this
    exact ⟨_, by simpa using hts, by simp⟩
  all_goals
    right
    simp only [Fetched.state?, Option.some.injEq] at h
    subst h
    exact ⟨_, by simpa using ‹s.turns = _›, by simp⟩

end Sys2Proof.Machine
end

