-- ==== Sys2Proof/Laws/Transform.lean ====
section
/-! SUPPORT. The small lemmas of the transforms as functions. -/

namespace Sys2Proof.Machine

open Sys2Proof.Config

variable {p : Coeffs} {a b v : Nat}

@[simp] theorem setAt_same : setAt p a v a = v := if_pos rfl

theorem setAt_of_ne (h : b ≠ a) : setAt p a v b = p b := if_neg h

section Pairs

variable {comb : Nat → Nat → Nat → Nat × Nat} {tw : Twiddles} {pr : Pair}

theorem combineAt_hi : combineAt comb tw p pr pr.hi = (comb (p pr.lo) (p pr.hi) (tw pr.rom)).2 := setAt_same

theorem combineAt_lo (h : pr.lo ≠ pr.hi) :
    combineAt comb tw p pr pr.lo = (comb (p pr.lo) (p pr.hi) (tw pr.rom)).1 :=
  (setAt_of_ne h).trans setAt_same

/-- The frame: a butterfly changes the two positions of its pair only. -/
theorem combineAt_frame (h1 : a ≠ pr.lo) (h2 : a ≠ pr.hi) : combineAt comb tw p pr a = p a :=
  (setAt_of_ne h2).trans (setAt_of_ne h1)

/-- Outputs below a bound keep a buffer below it. -/
theorem combineAt_lt {n : Nat} (hp : p a < n) (h1 : (comb (p pr.lo) (p pr.hi) (tw pr.rom)).1 < n)
    (h2 : (comb (p pr.lo) (p pr.hi) (tw pr.rom)).2 < n) : combineAt comb tw p pr a < n := by
  unfold combineAt setAt
  split
  · exact h2
  · split
    · exact h1
    · exact hp

end Pairs

/-! The block's own transforms and table rule are the general ones at its image. -/

theorem nttFwdFn_eq : nttFwdFn p = nttFwdWith (romWord .twf) p := rfl

theorem nttInvFn_eq : nttInvFn p = nttInvWith (romWord .twi) p := rfl

theorem twgenFwd_eq : twgenFwd = twgenWith PSI LOGN 0 := rfl

theorem twgenInv_eq : twgenInv = twgenWith PSIINV LOGN 0 := rfl

end Sys2Proof.Machine
end

