-- ==== Sys2Proof/Tests/Slice0.lean ====
section
/-! SUPPORT. Tests of the model on the spec's own examples (95_test_vectors.md), the refusals of the well-formedness
checks, and a witness for the hypotheses of every obligation that has some. -/

namespace Sys2Proof.Tests

open Sys2Proof.Machine Sys2Proof.Config

/-! ### Small states -/

/-- A buffer with the same value in every word. -/
def fill (v : Word) : Memory := (List.range N).map fun a => (a, v)

/-- An idle machine with a buffer. -/
def idle (m : Memory) : State := { State.reset with buf := m }

/-- A machine inside a transform. -/
def running (d : Dir) (p : Phase) (k : BitVec 10) (m : Memory) : State :=
  { State.reset with buf := m, op := d, busy := true, phase := p, k := k }

/-- The state a step or a meaning goes on with, if it goes on. -/
def nextOf (x : Host.Outcome State Fault Refusal) : Option State :=
  match x with
  | .next t => some t
  | _ => none

/-- Why it was refused, if it was. -/
def refusalOf (x : Host.Outcome State Fault Refusal) : Option Refusal :=
  match x with
  | .refused r => some r
  | _ => none

/-! ### Well-formedness: each check refuses an ill-formed term -/

theorem test_wf_reserved_uop : PortWord.wf (.uop 0b11#2) = false := by decide

theorem test_wf_cmd_too_wide : fitsWidth 1 2 = false := by decide

theorem test_wf_bufreq_too_wide : fitsWidth 23 0x800000 = false := by decide

theorem test_wf_script_request_while_running :
    scriptWf false [.host (.command 0#1), .host (.request 0x000000#23)] = false := by decide

theorem test_wf_script_second_command :
    scriptWf false [.host (.command 0#1), .engine, .host (.command 1#1)] = false := by decide

theorem test_wf_script_call_then_read :
    scriptWf false [.host (.command 0#1), .host .wait, .host (.request 0x000000#23)] = true := by decide

/-! ### Decoding: words written out from 95_test_vectors.md 5.1 and 5.2 -/

theorem test_decode_nttFwd : decode (.cmd 0b0#1) = .ok .nttFwd := rfl

theorem test_decode_nttInv : decode (.cmd 0b1#1) = .ok .nttInv := rfl

theorem test_decode_bflyCt : decode (.uop 0b00#2) = .ok .bflyCt := rfl

theorem test_decode_bflyGs : decode (.uop 0b01#2) = .ok .bflyGs := rfl

theorem test_decode_scale : decode (.uop 0b10#2) = .ok .scale := rfl

theorem test_decode_reserved : decode (.uop 0b11#2) = .error .reservedUop := rfl

/-- `0x3FC000` is `0 11111111 00000000000000`: HOST_RD(255). -/
theorem test_decode_hostRd : decode (.bufreq 0b01111111100000000000000#23) = .ok (.hostRd 255#8) := rfl

/-- `0x003FFF` is `0 00000000 11111111111111`: HOST_RD(0), `wdata` ignored. -/
theorem test_decode_hostRd_wdata : decode (.bufreq 0b00000000011111111111111#23) = .ok (.hostRd 0#8) := rfl

/-- `0x5A1234` is `1 01101000 01001000110100`: HOST_WR(104, 4660). -/
theorem test_decode_hostWr :
    decode (.bufreq 0b10110100001001000110100#23) = .ok (.hostWr 104#8 4660#14) := rfl

/-- `0x41F001`: HOST_WR(7, 12289). -/
theorem test_decode_hostWr_q : decode (.bufreq 0x41F001#23) = .ok (.hostWr 7#8 12289#14) := rfl

theorem test_table_words :
    decodeTableWord 1 1 = some .nttInv ∧ decodeTableWord 2 1 = some .bflyGs ∧ decodeTableWord 8 2 = some .scale ∧
    decodeTableWord 8 3 = none ∧ decodeTableWord 24 0x723FFF = some (.hostWr 200#8 16383#14) := by decide

/-! ### One step of each instruction -/

/-- P4 step 1: `u = 5`, `w = 4956`, ROM 10810 give 6614 and 5685. -/
theorem test_bflyCt_first :
    nextOf (execBflyCt (running .fwd .bfly 0#10 [(0, 5#14), (128, 4956#14)])) =
      some ((running .fwd .bfly 1#10 [(0, 6614#14), (128, 5685#14)])) := by decide +kernel

/-- P4 step 1024: `u = 8434`, `w = 2797`, ROM 476 give 305 and 4274, and the transform completes. -/
theorem test_bflyCt_last :
    nextOf (execBflyCt (running .fwd .bfly 1023#10 [(254, 8434#14), (255, 2797#14)])) =
      some ({ idle [(254, 305#14), (255, 4274#14)] with done := true }) := by decide +kernel

/-- P4 inverse step 1: `u = 10876`, `v = 1515`, ROM 11813 give 102 and 5071. -/
theorem test_bflyGs_first :
    nextOf (execBflyGs (running .inv .bfly 0#10 [(0, 10876#14), (1, 1515#14)])) =
      some ((running .inv .bfly 1#10 [(0, 102#14), (1, 5071#14)])) := by decide +kernel

/-- P4 inverse step 1024: `u = 9509`, `v = 7962`, ROM 1479 give 5182 and 2259, and scaling is next. -/
theorem test_bflyGs_last :
    nextOf (execBflyGs (running .inv .bfly 1023#10 [(127, 9509#14), (255, 7962#14)])) =
      some ((running .inv .scale 0#10 [(127, 5182#14), (255, 2259#14)])) := by decide +kernel

/-- P4 step 1025: 1280 becomes 5. -/
theorem test_scale_first :
    nextOf (execScale (running .inv .scale 0#10 [(0, 1280#14)])) = some ((running .inv .scale 1#10 [(0, 5#14)])) := by
  decide +kernel

/-- P4 step 1280: 2259 becomes 2169, and the transform completes. -/
theorem test_scale_last :
    nextOf (execScale (running .inv .scale 255#10 [(255, 2259#14)])) =
      some ({ idle [(255, 2169#14)] with op := .inv, done := true }) := by decide +kernel

/-- 95_test_vectors.md 5.4: two invalid words, the lowest index is reported. -/
theorem test_nttFwd_fault :
    let m := Memory.write (Memory.write (fill 0#14) 200 16383#14) 7 12289#14
    nextOf (execNttFwd (idle m)) = some ({ idle m with err := true, erridx := 7#8 }) := by decide +kernel

/-- 95_test_vectors.md 5.4: `ALLMAX` raises no fault. -/
theorem test_nttFwd_accepted :
    nextOf (execNttFwd (idle (fill 12288#14))) = some ((running .fwd .bfly 0#10 (fill 12288#14))) := by decide +kernel

/-- 95_test_vectors.md 5.4: `ZERO` with `BUF[0] = 16383`, `OP` records the command and `DONE` is cleared. -/
theorem test_nttInv_fault :
    let m := Memory.write (fill 0#14) 0 16383#14
    nextOf (execNttInv { idle m with done := true }) = some ({ idle m with op := .inv, err := true }) := by decide +kernel

/-- P1: `NTT_INV` accepted. -/
theorem test_nttInv_accepted :
    nextOf (execNttInv { idle (fill 1#14) with done := true }) = some ((running .inv .bfly 0#10 (fill 1#14))) := by
  decide +kernel

/-- R56: `HOST_WR(3, 12288)`. -/
theorem test_hostWr : nextOf (execHostWr 3#8 12288#14 (idle [])) = some (idle [(3, 12288#14)]) := by decide

/-- P3: a write while `ERR = 1` has the normal effect, also of a non-residue. -/
theorem test_hostWr_after_fault :
    nextOf (execHostWr 200#8 16383#14 { idle [] with err := true }) = some ({ idle [(200, 16383#14)] with err := true }) := by
  decide

/-- R57: after it, `HOST_RD(3)` returns 12288. -/
theorem test_hostRd :
    nextOf (execHostRd 3#8 (idle [(3, 12288#14)])) =
      some ({ idle [(3, 12288#14)] with replies := [.word 12288#14] }) := by decide

/-- P3: `NTT_FWD` right after `RESET` is refused, the buffer being unwritten. -/
theorem test_command_on_unwritten_buffer :
    refusalOf (step { State.reset with turns := [.host (.command 0#1)] }) = some (.unwrittenWord 0) := by
  decide +kernel

/-- P4 variant: `RESET` after 5 engine steps. -/
theorem test_reset_in_transform :
    nextOf (step { running .fwd .bfly 5#10 (fill 3#14) with turns := [.host .reset] }) = some (State.reset) := by
  decide +kernel

/-- The table words of the two short formats and of the buffer port run as the first instruction. -/
theorem test_table_words_run :
    ((nextOf (step (State.reset.withFetchWord 8 0))).map (·.phase)) = some .bfly ∧
    ((nextOf (step (State.reset.withFetchWord 8 1))).map (·.op)) = some .inv ∧
    ((nextOf (step (State.reset.withFetchWord 8 2))).map (·.phase)) = some .scale ∧
    ((nextOf (step (State.reset.withFetchWord 2 0))).map (·.op)) = some .fwd ∧
    ((nextOf (step (State.reset.withFetchWord 24 0x41F001))).map fun t => Memory.read t.buf 7) =
      some (some 12289#14) := by decide +kernel

/-! ### Witnesses: concrete inputs that meet the hypotheses of the obligations -/

theorem read_fill (v : Word) {a : Nat} (h : a < N) : Memory.read (fill v) a = some v := read_map_range _ h

theorem fill_wf (v : Word) : Memory.wf (fill v) := wf_map_range _

theorem fill_zero_wf : Memory.wf (fill 0#14) := fill_wf _

theorem fill_zero_valid : validBuffer (fill 0#14) :=
  fun _ h => isResidueAt_eq_true.2 ⟨_, read_fill _ h, by decide⟩

theorem idle_inv : (idle (fill 0#14)).Inv where
  memory := fill_zero_wf
  flags := rfl
  busyPhase := by decide
  idleK := fun _ => rfl
  scaleK := by decide
  residues := by intro h; exact absurd h (by decide)
  erridxZero := fun _ => rfl

theorem running_inv : (running .inv .scale 255#10 (fill 0#14)).Inv where
  memory := fill_zero_wf
  flags := rfl
  busyPhase := by decide
  idleK := by intro h; exact absurd h (by decide)
  scaleK := by decide
  residues := fun _ => fill_zero_valid
  erridxZero := fun _ => rfl

theorem running_bfly_inv : (running .fwd .bfly 1023#10 (fill 0#14)).Inv where
  memory := fill_zero_wf
  flags := rfl
  busyPhase := by decide
  idleK := by intro h; exact absurd h (by decide)
  scaleK := by intro h; exact absurd h (by decide)
  residues := fun _ => fill_zero_valid
  erridxZero := fun _ => rfl

/-- An idle machine with a valid buffer and one command to come. -/
def calling (d : Dir) : State := { idle (fill 0#14) with turns := [moveCommand d] }

theorem calling_inv (d : Dir) : (calling d).Inv where
  memory := fill_zero_wf
  flags := rfl
  busyPhase := by simp [calling, idle]
  idleK := fun _ => rfl
  scaleK := by simp [calling, idle]
  residues := by simp [calling, idle]
  erridxZero := fun _ => rfl

theorem witness_StepRunsDecodedInstruction :
    fetch (calling .fwd) = .word (.cmd 0#1) (idle (fill 0#14)) ∧ decode (.cmd 0#1) = .ok .nttFwd ∧
    fetch (running .inv .scale 0#10 []) = .word (.uop 2#2) (running .inv .scale 0#10 []) ∧
    decode (.uop 2#2) = .ok .scale := ⟨rfl, rfl, rfl, rfl⟩

theorem witness_TurnsPresentTheirWords :
    (idle []).turns = [] ∧ (running .fwd .bfly 0#10 []).busy = true ∧ (running .fwd .bfly 0#10 []).turns = [] ∧
    uopCode .bfly .fwd = some 0#2 ∧ (calling .inv).turns = .host (.command 1#1) :: [] ∧
    ({ idle [] with turns := [.host (.request 0#23)] } : State).turns = .host (.request 0#23) :: [] ∧
    ({ running .inv .scale 0#10 [] with turns := [.engine] } : State).turns = .engine :: [] := by
  decide

theorem witness_StatusReadAnswersOutputs :
    ({ idle [] with turns := [.host .readStatus] } : State).turns = .host .readStatus :: [] := rfl

theorem witness_ResetStepGivesResetValues :
    ({ running .fwd .bfly 5#10 (fill 3#14) with turns := [.host .reset] } : State).turns = .host .reset :: [] := rfl

theorem witness_IdleAndWaitSteps :
    ((idle []).turns = [] ∧ (idle []).busy = false) ∧
    (let s : State := { idle [] with turns := [.host .wait], done := true }
     s.turns = .host .wait :: [] ∧ (s.done = true ∨ s.err = true)) ∧
    (let s : State := { idle [] with turns := [.host .wait] }
     s.turns = .host .wait :: [] ∧ s.done = false ∧ s.err = false ∧ s.busy = false) ∧
    (let s : State := { running .inv .scale 255#10 [] with turns := [.host .wait] }
     s.turns = .host .wait :: [] ∧ s.done = false ∧ s.err = false ∧ s.busy = true ∧
       uopCode s.phase s.op = some 2#2) := by decide

theorem witness_HostWriteStoresItsWord : ({ idle [] with err := true } : State).busy = false := rfl

theorem witness_HostReadAnswersItsWord :
    (idle [(255, 16383#14)]).busy = false ∧
    Memory.read (idle [(255, 16383#14)]).buf (255#8).toNat = some 16383#14 := by decide

theorem witness_HostReadReturnsLastWrite :
    exec (.hostWr 0#8 5#14) (idle [(255, 7#14)]) = .next (idle [(0, 5#14), (255, 7#14)]) ∧
    255#8 ≠ 0#8 ∧ Memory.read (idle [(255, 7#14)]).buf (255#8).toNat = some 7#14 :=
  ⟨rfl, by decide, by decide⟩

theorem witness_MovesNotEnabledAreRefused :
    (running .fwd .bfly 0#10 []).busy = true ∧
    ({ idle [] with err := true } : State).busy = false ∧ ({ idle [] with err := true } : State).err = true := by
  decide

theorem witness_UnwrittenWordsAreRefused :
    (idle [(0, 1#14)]).busy = false ∧ (idle [(0, 1#14)]).err = false ∧ 1 < N ∧
    Memory.read (idle [(0, 1#14)]).buf (1#8).toNat = none ∧
    ∀ b < 1, Memory.read (idle [(0, 1#14)]).buf b ≠ none := by decide

/-- Residues and the largest first multiplier operand: ModAddIsConditionalSubtraction, ModSubIsBiasedDifference,
ModMulReducesOnce, PrimitivesAreRingOperations, IntermediatesFitTheDatapath, BarrettCircuitEqualsModRed. -/
theorem witness_primitive_operands :
    12288 < Q ∧ 0 < Q ∧ 24577 ≤ 24577 ∧ Q ≤ 24577 ∧ ((3 : Nat) : ZMod Q) = ((3 : Nat) : ZMod Q) ∧
    2 ^ 29 - 1 < 2 ^ WACC ∧ (5 : Nat) = 0 * Q + 5 := by decide

/-- ROM addresses at the ends of their ranges: RomImageFollowsTableRule, RomWordsAreMutuallyInverse, RomImageIsValid,
EveryRomAddressIsRead, RomExponentPerStage. -/
theorem witness_rom_addresses :
    1 ≤ 1 ∧ 1 ≤ 255 ∧ 255 ≤ 255 ∧ 127 ≤ 127 ∧ 256 ≤ 256 ∧ Space.twf ≠ .buf ∧ Space.twi ≠ .buf ∧ 7 ≤ 7 ∧
    127 < 2 ^ 7 := by decide

/-- Stages, butterflies and positions at the ends of their ranges: StageTouchesEveryWordOnce,
InverseStagesRunForwardStagesBackwards, ButterfliesOfAStageCommute. -/
theorem witness_stage_numbers : 7 < 8 ∧ 127 < 128 ∧ 0 < 128 ∧ 255 < 256 := by decide

theorem witness_ButterflyCtComputesAndAdvances :
    let s := running .fwd .bfly 1023#10 [(254, 8434#14), (255, 2797#14)]
    s.busy = true ∧ s.phase = .bfly ∧ s.op = .fwd ∧ s.k = 1023#10 ∧
    Memory.read s.buf (fwdPair s.k).lo = some 8434#14 ∧ (8434#14).toNat < Q ∧
    Memory.read s.buf (fwdPair s.k).hi = some 2797#14 ∧ (2797#14).toNat < Q := by decide +kernel

theorem witness_ButterflyGsComputesAndAdvances :
    let s := running .inv .bfly 0#10 [(0, 10876#14), (1, 1515#14)]
    s.busy = true ∧ s.phase = .bfly ∧ s.op = .inv ∧ s.k ≠ 1023#10 ∧
    Memory.read s.buf (invPair s.k).lo = some 10876#14 ∧ (10876#14).toNat < Q ∧
    Memory.read s.buf (invPair s.k).hi = some 1515#14 ∧ (1515#14).toNat < Q := by decide +kernel

theorem witness_ScaleComputesAndAdvances :
    let s := running .inv .scale 255#10 [(255, 2259#14)]
    s.busy = true ∧ s.phase = .scale ∧ s.k.toNat < N ∧ s.k = 255#10 ∧
    Memory.read s.buf s.k.toNat = some 2259#14 ∧ (2259#14).toNat < Q := by decide +kernel

theorem witness_MicroOpsNeedTheirPhase :
    ¬ ((idle []).busy = true ∧ (idle []).phase = .bfly ∧ (idle []).op = .fwd) ∧
    ¬ ((idle []).busy = true ∧ (idle []).phase = .bfly ∧ (idle []).op = .inv) ∧
    ¬ ((idle []).busy = true ∧ (idle []).phase = .scale) := by decide

theorem witness_ButterfliesUndoEachOther :
    1234 < Q ∧ 5678 < Q ∧ 10810 < Q ∧ 1479 < Q ∧ modmul 10810 1479 = 1 := by decide

theorem witness_CommandAcceptedOnValidBuffer :
    (idle (fill 0#14)).busy = false ∧ (idle (fill 0#14)).err = false ∧ validBuffer (idle (fill 0#14)).buf :=
  ⟨rfl, rfl, fill_zero_valid⟩

theorem witness_InvalidResidueReportsLowestIndex :
    let s := idle (fill 12289#14)
    s.busy = false ∧ s.err = false ∧ (∀ a < N, Memory.read s.buf a ≠ none) ∧
    Memory.read s.buf (0#8).toNat = some 12289#14 ∧ 12289 ≤ (12289#14).toNat ∧
    ∀ j < (0#8).toNat, ∀ x, Memory.read s.buf j = some x → x.toNat < 12289 :=
  ⟨rfl, rfl, fun _ h => by rw [show (idle (fill 12289#14)).buf = fill 12289#14 from rfl, read_fill _ h]; simp,
    read_fill _ (by decide), by decide, by intro j hj; simp at hj⟩

theorem witness_ErrIsStickyUntilReset :
    step { idle [] with err := true } = .next { idle [] with err := true } ∧
    ({ idle [] with err := true } : State).err = true := ⟨rfl, rfl⟩

theorem witness_RegistersChangeOnlyByTheirWriters :
    nextOf (step (running .inv .scale 255#10 (fill 0#14))) =
      some { idle (fill 0#14) with op := .inv, done := true } := by decide +kernel

theorem witness_StepKeepsInvariant :
    (running .inv .scale 255#10 (fill 0#14)).Inv ∧
    (nextOf (step (running .inv .scale 255#10 (fill 0#14)))).isSome = true :=
  ⟨running_inv, by decide +kernel⟩

theorem witness_EngineStepsNeverStop :
    (running .fwd .bfly 1023#10 (fill 0#14)).Inv ∧ (running .fwd .bfly 1023#10 (fill 0#14)).busy = true ∧
    (running .fwd .bfly 1023#10 (fill 0#14)).turns = [] := ⟨running_bfly_inv, rfl, rfl⟩

theorem witness_ControlIgnoresTheBuffer :
    let s := running .fwd .bfly 1023#10 (fill 0#14)
    s.Inv ∧ s.busy = true ∧ s.control = s.control ∧ s.turns = s.turns ∧ (nextOf (step s)).isSome = true :=
  ⟨running_bfly_inv, rfl, rfl, rfl, by decide +kernel⟩

theorem witness_HostCannotDisturbTransform :
    let s : State := { running .fwd .bfly 5#10 [] with turns := [.host .readStatus] }
    s.busy = true ∧ s.turns = .host .readStatus :: [] ∧ HostMove.readStatus ≠ .reset ∧ HostMove.readStatus ≠ .wait ∧
    (nextOf (step s)).isSome = true := by decide

theorem witness_CheckedScriptsKeepHandsOff :
    (calling .fwd).Inv ∧ (calling .fwd).scriptOk = true ∧
    step (calling .fwd) = .next ((idle (fill 0#14)).latchCommand .fwd).start := by
  refine ⟨calling_inv _, rfl, ?_⟩
  rw [step_moveCommand (d := .fwd) (ts := []) rfl]
  have h := checks_pass_iff_validBuffer.2 fill_zero_valid
  exact acceptCommand_eq_next.2 ⟨rfl, rfl, h.1, .inr ⟨h.2, rfl⟩⟩

theorem witness_InstancesAreIndependent :
    systemStep [idle [], running .fwd .bfly 0#10 []] ⟨0, by decide⟩ =
      .next [idle [], running .fwd .bfly 0#10 []] := rfl

/-- CommandRunsToCompletion and ResultIgnoresHistory. -/
theorem witness_CommandRunsToCompletion (d : Dir) :
    (calling d).Inv ∧ (calling d).busy = false ∧ (calling d).err = false ∧ validBuffer (calling d).buf ∧
    (calling d).turns = [moveCommand d] := ⟨calling_inv d, rfl, rfl, fill_zero_valid, rfl⟩

/-- An idle machine with no move scheduled stays as it is for any number of steps. -/
theorem stepN_idle {s : State} (h1 : s.turns = []) (h2 : s.busy = false) (n : Nat) : stepN n s = .next s := by
  have hs : step s = .next s := by simp [step, fetch, engineTurn, h1, h2]
  induction n with
  | zero => rfl
  | succ n ih => rw [stepN, hs, andThen_next, ih]

/-- Two machines with different pasts and one buffer (here an invalid one), each run for a whole command. -/
theorem witness_ResultIgnoresHistory :
    let s : State := { idle (fill 12289#14) with turns := [moveCommand .inv] }
    let s' : State := { s with op := .inv, done := true, replies := [.word 1#14] }
    let t : State := { idle (fill 12289#14) with op := .inv, err := true }
    s.Inv ∧ s'.Inv ∧ s.busy = false ∧ s'.busy = false ∧ s.buf = s'.buf ∧
    s.turns = [moveCommand .inv] ∧ s'.turns = [moveCommand .inv] ∧
    stepN (1 + microOpsOf .inv) s = .next t ∧
    stepN (1 + microOpsOf .inv) s' = .next { t with replies := [.word 1#14] } := by
  have hwf : Memory.wf (fill 12289#14) := fill_wf _
  have hw : firstUnwritten (fill 12289#14) = none :=
    firstUnwritten_eq_none.2 fun _ h => by rw [read_fill _ h]; rfl
  have hi : firstInvalid (fill 12289#14) = some 0 :=
    firstInvalid_eq_some.2 ⟨by decide, isInvalidAt_eq_true.2 ⟨_, read_fill _ (by decide), by decide⟩, by simp⟩
  have hfault {u v : State} (hb : u.buf = fill 12289#14) (h1 : u.busy = false) (h2 : u.err = false)
      (hv : v = (u.latchCommand .inv).raiseInvalidResidue 0) : acceptCommand .inv u = .next v :=
    acceptCommand_eq_next.2 ⟨h1, h2, hb ▸ hw, .inl ⟨0, hb ▸ hi, hv⟩⟩
  refine ⟨⟨hwf, rfl, by simp [idle], fun _ => rfl, by simp [idle], by simp [idle], fun _ => rfl⟩,
    ⟨hwf, rfl, by simp [idle], fun _ => rfl, by simp [idle], by simp [idle], fun _ => rfl⟩,
    rfl, rfl, rfl, rfl, rfl, ?_, ?_⟩
  all_goals
    rw [Nat.add_comm, stepN, step_moveCommand (d := .inv) (ts := []) rfl, hfault rfl rfl rfl rfl, andThen_next,
      stepN_idle rfl rfl]
    simp [State.latchCommand, State.raiseInvalidResidue, State.putTurns, idle]

/-- A valid buffer: ButterfliesOfAStageCommute, SequencerOrderIsTheLoopNest, InverseUndoesForward, ForwardUndoesInverse, TransformsAreLinear, TransformsReturnResidues,
PointwiseProductIsNegacyclicConvolution, ForwardEvaluatesInBitReversedOrder, and the two inputs of
TransformsPreserveZero and UnitImpulseBecomesAllOnes. -/
theorem witness_valid_coefficients :
    validCoeffs (fun a => a) ∧ 255 < N ∧ 12288 < Q ∧ (∀ a < N, (fun _ => 0 : Coeffs) a = 0) ∧
    (∀ a < N, (fun a => if a = 0 then 1 else 0 : Coeffs) a = if a = 0 then 1 else 0) ∧
    ∀ a < N, (fun _ => 1 : Coeffs) a = 1 :=
  ⟨fun _ h => Nat.lt_trans h (by decide), by decide, by decide, fun _ _ => rfl, fun _ _ => rfl, fun _ _ => rfl⟩

/-- The image of another 512th root, `PSI^3`. -/
def cubedRoot : TableRule := { root := PSI ^ 3, rootInv := PSIINV ^ 3, width := LOGN, offset := 0 }

/-- An image other than the block's with residues, inverse words and the splitting property:
LawsNeedOnlyTheirTableProperties. -/
theorem witness_table_properties :
    residueWords cubedRoot.twf ∧ residueWords cubedRoot.twi ∧ inverseWords cubedRoot.twf cubedRoot.twi ∧
    splits cubedRoot.twf := by
  have hi : ∀ k < 256, 1 ≤ k → modmul (cubedRoot.twf k) (cubedRoot.twi k) = 1 := by decide +kernel
  have hs : ∀ k < 128, 1 ≤ k →
      modmul (cubedRoot.twf (2 * k)) (cubedRoot.twf (2 * k)) = cubedRoot.twf k ∧
      modmul (cubedRoot.twf (2 * k + 1)) (cubedRoot.twf (2 * k + 1)) = 12289 - cubedRoot.twf k := by decide +kernel
  exact ⟨fun _ _ _ => Nat.mod_lt _ (by decide), fun _ _ _ => Nat.mod_lt _ (by decide),
    fun k h1 h2 => hi k (Nat.lt_succ_of_le h2) h1, by decide +kernel, fun k h1 h2 => hs k (by omega) h1⟩

/-- The literal base 7: inverse words, but address 1 holds no square root of -1 (90_conflicts.md C1). -/
theorem witness_ConvolutionDetectsWrongTables :
    let g : TableRule := { root := 7, rootInv := 8778, width := 8, offset := 0 }
    g ∈ wrongTableRules ∧ residueWords g.twf ∧ residueWords g.twi ∧ inverseWords g.twf g.twi ∧
    modmul (g.twf 1) (g.twf 1) ≠ 12288 := by
  intro g
  have hi : ∀ k < 256, 1 ≤ k → modmul (g.twf k) (g.twi k) = 1 := by decide +kernel
  exact ⟨by decide, fun _ _ _ => Nat.mod_lt _ (by decide), fun _ _ _ => Nat.mod_lt _ (by decide),
    fun k h1 h2 => hi k (Nat.lt_succ_of_le h2) h1, by decide +kernel⟩

end Sys2Proof.Tests
end

/-! ## The step, one rule per turn

What `step` does for each head of the schedule, and from it the inversion lemma `step_cases`. -/

namespace Sys2Proof.Machine

variable {s t : State} {ts : List Turn}

/-! ### The arms of `exec` -/

@[simp] theorem exec_nttFwd : exec .nttFwd s = acceptCommand .fwd s := rfl
@[simp] theorem exec_nttInv : exec .nttInv s = acceptCommand .inv s := rfl
@[simp] theorem exec_bflyCt : exec .bflyCt s = execBflyCt s := rfl
@[simp] theorem exec_bflyGs : exec .bflyGs s = execBflyGs s := rfl
@[simp] theorem exec_scale : exec .scale s = execScale s := rfl
@[simp] theorem exec_hostRd {a : Addr} : exec (.hostRd a) s = execHostRd a s := rfl
@[simp] theorem exec_hostWr {a : Addr} {v : Word} : exec (.hostWr a v) s = execHostWr a v s := rfl

/-! ### Host turns -/

theorem putTurns_of_turns_eq (h : s.turns = ts) : s.putTurns ts = s := by subst h; rfl

theorem fetch_command {op : BitVec 1} (h : s.turns = .host (.command op) :: ts) :
    fetch s = .word (.cmd op) (s.putTurns ts) := by
  simp [fetch, h]

theorem fetch_request {w : BitVec 23} (h : s.turns = .host (.request w) :: ts) :
    fetch s = .word (.bufreq w) (s.putTurns ts) := by
  simp [fetch, h]

theorem step_command {op : BitVec 1} (h : s.turns = .host (.command op) :: ts) :
    step s = exec (decodeCmd op) (s.putTurns ts) := by
  rw [step, fetch_command h]; rfl

theorem step_request {w : BitVec 23} (h : s.turns = .host (.request w) :: ts) :
    step s = exec (decodeBufreq w) (s.putTurns ts) := by
  rw [step, fetch_request h]; rfl

/-- A command is the acceptance in the direction its bit names (R71). -/
theorem exec_decodeCmd (op : BitVec 1) (s : State) : ∃ d, exec (decodeCmd op) s = acceptCommand d s := by
  unfold decodeCmd
  split
  · exact ⟨.fwd, rfl⟩
  · exact ⟨.inv, rfl⟩

/-- A request is a host write or a host read (R73). -/
theorem exec_decodeBufreq (w : BitVec 23) (s : State) :
    (∃ a v, exec (decodeBufreq w) s = execHostWr a v s) ∨ ∃ a, exec (decodeBufreq w) s = execHostRd a s := by
  unfold decodeBufreq
  split
  · exact .inl ⟨_, _, rfl⟩
  · exact .inr ⟨_, rfl⟩

theorem step_readStatus (h : s.turns = .host .readStatus :: ts) :
    step s = .next ((s.putTurns ts).reply (statusReply (s.putTurns ts))) := by
  simp [step, fetch, h]

theorem step_reset (h : s.turns = .host .reset :: ts) : step s = .next (s.putTurns ts).applyReset := by
  simp [step, fetch, h]

theorem step_waitOver (h : s.turns = .host .wait :: ts) (hf : s.done = true ∨ s.err = true) :
    step s = .next (s.putTurns ts) := by
  simp [step, fetch, h, hf]

/-! ### The engine's turns -/

/-- The host leaves the next step to the engine, and `ts` is the schedule that then stands (R31, R37, R75). -/
inductive LeftToEngine (s : State) : List Turn → Prop
  | unscheduled (h : s.turns = []) : LeftToEngine s []
  | scheduled {ts : List Turn} (h : s.turns = .engine :: ts) : LeftToEngine s ts
  | polling {ts : List Turn} (h : s.turns = .host .wait :: ts) (hd : s.done = false) (he : s.err = false) :
      LeftToEngine s (.host .wait :: ts)

theorem fetch_leftToEngine (h : LeftToEngine s ts) : fetch s = engineTurn (s.putTurns ts) := by
  cases h with
  | unscheduled h => rw [putTurns_of_turns_eq h]; simp [fetch, h]
  | scheduled h => simp [fetch, h]
  | polling h hd he => rw [putTurns_of_turns_eq h]; simp [fetch, h, hd, he]

/-- The only host move under which the engine has the turn is `WAIT`. -/
theorem LeftToEngine.host_move_eq_wait (h : LeftToEngine s ts) {m : HostMove} {ts' : List Turn}
    (hm : s.turns = .host m :: ts') : m = .wait := by
  cases h with
  | unscheduled h => simp [h] at hm
  | scheduled h => simp [h] at hm
  | polling h => cases h.symm.trans hm; rfl

theorem engineTurn_of_uopCode {c : BitVec 2} (hb : s.busy = true) (hc : uopCode s.phase s.op = some c) :
    engineTurn s = .word (.uop c) s := by
  simp [engineTurn, hb, hc]

/-- One of the three micro-ops goes on to `t`. -/
def MicroOp (s t : State) : Prop := execBflyCt s = .next t ∨ execBflyGs s = .next t ∨ execScale s = .next t

/-- A code of the sequencer runs the micro-op it names (R72). -/
theorem microOp_of_runWord {p : Phase} {d : Dir} {c : BitVec 2} (hc : uopCode p d = some c)
    (h : runWord (.uop c) s = .next t) : MicroOp s t := by
  cases p with
  | idle => simp [uopCode] at hc
  | bfly =>
    cases d with
    | fwd => cases hc; exact .inl h
    | inv => cases hc; exact .inr (.inl h)
  | scale => cases hc; exact .inr (.inr h)

/-- Everything a step that goes on can have done. -/
inductive StepCase (s t : State) : Prop
  | reset (ts : List Turn) (h : s.turns = .host .reset :: ts) (ht : t = (s.putTurns ts).applyReset)
  | command (op : BitVec 1) (ts : List Turn) (h : s.turns = .host (.command op) :: ts) (d : Dir)
      (ht : acceptCommand d (s.putTurns ts) = .next t)
  | write (w : BitVec 23) (ts : List Turn) (h : s.turns = .host (.request w) :: ts) (a : Addr) (v : Word)
      (ht : execHostWr a v (s.putTurns ts) = .next t)
  | read (w : BitVec 23) (ts : List Turn) (h : s.turns = .host (.request w) :: ts) (a : Addr)
      (ht : execHostRd a (s.putTurns ts) = .next t)
  | status (ts : List Turn) (h : s.turns = .host .readStatus :: ts)
      (ht : t = (s.putTurns ts).reply (statusReply (s.putTurns ts)))
  | waitOver (ts : List Turn) (h : s.turns = .host .wait :: ts) (hf : s.done = true ∨ s.err = true)
      (ht : t = s.putTurns ts)
  | idle (ts : List Turn) (h : LeftToEngine s ts) (hb : s.busy = false) (ht : t = s.putTurns ts)
  | microOp (ts : List Turn) (h : LeftToEngine s ts) (hb : s.busy = true) (ht : MicroOp (s.putTurns ts) t)

theorem stepCase_of_leftToEngine (hl : LeftToEngine s ts) (h : step s = .next t) : StepCase s t := by
  rw [step, fetch_leftToEngine hl] at h
  rcases engineTurn_cases (s.putTurns ts) with ⟨hb, he⟩ | ⟨-, -, he⟩ | ⟨hb, c, hc, he⟩ <;> rw [he] at h
  · exact .idle ts hl hb (by simpa using h.symm)
  · simp at h
  · exact .microOp ts hl hb (microOp_of_runWord hc h)

/-- The inversion of `step`: a case per head of the schedule. -/
theorem step_cases (h : step s = .next t) : StepCase s t := by
  cases hts : s.turns with
  | nil => exact stepCase_of_leftToEngine (.unscheduled hts) h
  | cons x ts =>
    cases x with
    | engine => exact stepCase_of_leftToEngine (.scheduled hts) h
    | host m =>
      cases m with
      | command op =>
        obtain ⟨d, hd⟩ := exec_decodeCmd op (s.putTurns ts)
        exact .command op ts hts d (by rw [← hd, ← step_command hts, h])
      | request w =>
        obtain ⟨a, v, hw⟩ | ⟨a, hr⟩ := exec_decodeBufreq w (s.putTurns ts)
        · exact .write w ts hts a v (by rw [← hw, ← step_request hts, h])
        · exact .read w ts hts a (by rw [← hr, ← step_request hts, h])
      | readStatus => exact .status ts hts (by simpa [step_readStatus hts] using h.symm)
      | reset => exact .reset ts hts (by simpa [step_reset hts] using h.symm)
      | wait =>
        by_cases hf : s.done = true ∨ s.err = true
        · exact .waitOver ts hts hf (by simpa [step_waitOver hts hf] using h.symm)
        · obtain ⟨hd, he⟩ : s.done = false ∧ s.err = false := by simpa using hf
          exact stepCase_of_leftToEngine (.polling hts hd he) h

/-! ### What a micro-op does -/

/-- How the sequencer goes on after a micro-op (R33, R34, R35). -/
inductive Sequenced (s : State) : State → Prop
  | advance (hk : s.phase = .scale → s.k ≠ 255#10) : Sequenced s s.advance
  | toScale (hop : s.op = .inv) : Sequenced s s.toScale
  | complete : Sequenced s s.complete

theorem sequenced_afterCt (hp : s.phase = .bfly) : Sequenced s (afterCt s) := by
  unfold afterCt
  split
  · exact .complete
  · exact .advance (by simp [hp])

theorem sequenced_afterGs (hp : s.phase = .bfly) (hop : s.op = .inv) : Sequenced s (afterGs s) := by
  unfold afterGs
  split
  · exact .toScale hop
  · exact .advance (by simp [hp])

theorem sequenced_afterScale : Sequenced s (afterScale s) := by
  unfold afterScale
  split
  · exact .complete
  · exact .advance fun _ => by assumption

end Sys2Proof.Machine

/-! ## What the datapath keeps of the buffer -/

namespace Sys2Proof.Machine

open Sys2Proof.Config

/-- Every result of `MODRED` is a residue (R97). -/
theorem modred_lt (x : Nat) : modred x < Q := Nat.mod_lt _ (by decide)

/-- A combination whose two outputs are residues, whatever its operands (R97). -/
def ResidueComb (comb : Nat → Nat → Nat → Nat × Nat) : Prop :=
  ∀ u w tw, (comb u w tw).1 < Q ∧ (comb u w tw).2 < Q

theorem residueComb_ctOut : ResidueComb ctOut := fun _ _ _ => ⟨modred_lt _, modred_lt _⟩

theorem residueComb_gsOut : ResidueComb gsOut := fun _ _ _ => ⟨modred_lt _, modred_lt _⟩

theorem scaleOut_lt (x : Nat) : scaleOut x < Q := modred_lt _

variable {m m' : Memory}

theorem toNat_ofNat_of_lt_Q {v : Nat} (h : v < Q) : (BitVec.ofNat W v).toNat = v := by
  rw [BitVec.toNat_ofNat, Nat.mod_eq_of_lt (lt_trans h (by decide))]

/-- Writing a residue leaves a valid buffer valid. -/
theorem validBuffer_memWrite (hm : validBuffer m) (a : Nat) {v : Nat} (hv : v < Q) :
    validBuffer (memWrite m a v) := by
  intro b hb
  obtain ⟨w, hw, hq⟩ := isResidueAt_eq_true.1 (hm b hb)
  rw [isResidueAt_eq_true, read_memWrite]
  split
  · exact ⟨_, rfl, by rwa [toNat_ofNat_of_lt_Q hv]⟩
  · exact ⟨w, hw, hq⟩

theorem validBuffer_writePair (hm : validBuffer m) (p : Pair) {out : Nat × Nat} (h1 : out.1 < Q) (h2 : out.2 < Q) :
    validBuffer (writePair m p out) :=
  validBuffer_memWrite (validBuffer_memWrite hm _ h1) _ h2

/-- `m'` is canonical and valid if `m` is. -/
structure KeepsBuffer (m m' : Memory) : Prop where
  wf : Memory.wf m → Memory.wf m'
  valid : validBuffer m → validBuffer m'

theorem keepsBuffer_of_butterfly {rom : Space} {p : Pair} {comb : Nat → Nat → Nat → Nat × Nat}
    (hc : ResidueComb comb) (h : butterfly m rom p comb = .next m') : KeepsBuffer m m' := by
  obtain ⟨u, w, tw, hu, hw, -, rfl⟩ := butterfly_eq_next.1 h
  obtain ⟨hlo, -⟩ := readResidue_eq_next.1 hu
  obtain ⟨hhi, -⟩ := readResidue_eq_next.1 hw
  obtain ⟨h1, h2⟩ := hc u w tw
  exact ⟨fun hm => writePair_wf _ hm hlo hhi, fun hm => validBuffer_writePair hm p h1 h2⟩

theorem keepsBuffer_of_scaleWord {j : Nat} (h : scaleWord m j = .next m') : KeepsBuffer m m' := by
  obtain ⟨x, hx, rfl⟩ := scaleWord_eq_next.1 h
  obtain ⟨hj, -⟩ := readResidue_eq_next.1 hx
  exact ⟨fun hm => memWrite_wf _ hm hj, fun hm => validBuffer_memWrite hm _ (scaleOut_lt x)⟩

/-- A micro-op writes the buffer and moves the sequencer, and nothing else. -/
theorem microOp_next {s t : State} (h : MicroOp s t) :
    ∃ m, KeepsBuffer s.buf m ∧ Sequenced (s.putBuf m) t := by
  rcases h with h | h | h
  · obtain ⟨⟨-, hp, -⟩, m, hm, rfl⟩ := execBflyCt_eq_next.1 h
    exact ⟨m, keepsBuffer_of_butterfly residueComb_ctOut hm, sequenced_afterCt hp⟩
  · obtain ⟨⟨-, hp, hop⟩, m, hm, rfl⟩ := execBflyGs_eq_next.1 h
    exact ⟨m, keepsBuffer_of_butterfly residueComb_gsOut hm, sequenced_afterGs hp hop⟩
  · obtain ⟨-, m, hm, rfl⟩ := execScale_eq_next.1 h
    exact ⟨m, keepsBuffer_of_scaleWord hm, sequenced_afterScale⟩

end Sys2Proof.Machine

/-! ## The invariant: each register update keeps it -/

namespace Sys2Proof.Machine

open Sys2Proof.Config

variable {s t : State}

theorem inv_reset : State.reset.Inv where
  memory := Memory.wf_nil
  flags := rfl
  busyPhase := by simp
  idleK := fun _ => rfl
  scaleK := by simp
  residues := by simp
  erridxZero := fun _ => rfl

theorem flagsLegal_busy {done err : Bool} : flagsLegal true done err = true ↔ done = false ∧ err = false := by
  cases done <;> cases err <;> decide

namespace State.Inv

/-- While `BUSY = 1` neither `DONE` nor `ERR` is set (R26). -/
theorem done_err_of_busy (hs : s.Inv) (hb : s.busy = true) : s.done = false ∧ s.err = false :=
  flagsLegal_busy.1 (hb ▸ hs.flags)

/-- An idle block is in `IDLE` with `K = 0` (R28). -/
theorem idle_of_not_busy (hs : s.Inv) (hb : s.busy = false) : s.phase = .idle ∧ s.k = 0#10 := by
  have hp : s.phase = .idle := by simpa [hb] using hs.busyPhase
  exact ⟨hp, hs.idleK hp⟩

theorem putTurns (hs : s.Inv) (ts : List Turn) : (s.putTurns ts).Inv :=
  ⟨hs.memory, hs.flags, hs.busyPhase, hs.idleK, hs.scaleK, hs.residues, hs.erridxZero⟩

theorem reply (hs : s.Inv) (r : Reply) : (s.reply r).Inv :=
  ⟨hs.memory, hs.flags, hs.busyPhase, hs.idleK, hs.scaleK, hs.residues, hs.erridxZero⟩

theorem of_applyReset : s.applyReset.Inv :=
  ⟨inv_reset.memory, inv_reset.flags, inv_reset.busyPhase, inv_reset.idleK, inv_reset.scaleK, inv_reset.residues,
    inv_reset.erridxZero⟩

theorem putBuf (hs : s.Inv) {m : Memory} (hm : Memory.wf m) (hv : s.busy = true → validBuffer m) :
    (s.putBuf m).Inv :=
  ⟨hm, hs.flags, hs.busyPhase, hs.idleK, hs.scaleK, hv, hs.erridxZero⟩

/-- Taking the exception, on an idle block (R190). -/
theorem faulted (hs : s.Inv) (hb : s.busy = false) (d : Dir) (i : Nat) :
    ((s.latchCommand d).raiseInvalidResidue i).Inv where
  memory := hs.memory
  flags := by simp [flagsLegal, hb]
  busyPhase := hs.busyPhase
  idleK := hs.idleK
  scaleK := by simp [(hs.idle_of_not_busy hb).1]
  residues := hs.residues
  erridxZero := by simp

/-- Handing a valid buffer to the engine (R32). -/
theorem started (hs : s.Inv) (he : s.err = false) (hv : validBuffer s.buf) (d : Dir) :
    (s.latchCommand d).start.Inv where
  memory := hs.memory
  flags := by simp [flagsLegal, he]
  busyPhase := by simp
  idleK := by simp
  scaleK := by simp
  residues := fun _ => hv
  erridxZero := hs.erridxZero

/-- `K <- K + 1` stays in the range of `K` in the phase (R28). -/
theorem advance (hs : s.Inv) (hb : s.busy = true) (hk : s.phase = .scale → s.k ≠ 255#10) : s.advance.Inv where
  memory := hs.memory
  flags := hs.flags
  busyPhase := hs.busyPhase
  idleK := fun hp => absurd hp (hs.busyPhase.1 hb)
  scaleK := by
    intro hp
    obtain ⟨hop, hlt⟩ := hs.scaleK hp
    have hne := hk hp
    refine ⟨hop, ?_⟩
    have hlt' : s.k.toNat < 256 := hlt
    show (s.k + 1#10).toNat < 256
    bv_omega
  residues := hs.residues
  erridxZero := hs.erridxZero

theorem toScale (hs : s.Inv) (hb : s.busy = true) (hop : s.op = .inv) : s.toScale.Inv where
  memory := hs.memory
  flags := hs.flags
  busyPhase := by simp [hb]
  idleK := by simp
  scaleK := by simp [hop]
  residues := hs.residues
  erridxZero := hs.erridxZero

theorem complete (hs : s.Inv) (hb : s.busy = true) : s.complete.Inv where
  memory := hs.memory
  flags := by simp [flagsLegal, (hs.done_err_of_busy hb).2]
  busyPhase := by simp
  idleK := fun _ => rfl
  scaleK := by simp
  residues := by simp
  erridxZero := hs.erridxZero

theorem sequenced (hs : s.Inv) (hb : s.busy = true) (h : Sequenced s t) : t.Inv := by
  cases h with
  | advance hk => exact hs.advance hb hk
  | toScale hop => exact hs.toScale hb hop
  | complete => exact hs.complete hb

theorem of_microOp (hs : s.Inv) (hb : s.busy = true) (h : MicroOp s t) : t.Inv := by
  obtain ⟨m, hm, hseq⟩ := microOp_next h
  exact (hs.putBuf (hm.wf hs.memory) fun h => hm.valid (hs.residues h)).sequenced hb hseq

theorem of_acceptCommand (hs : s.Inv) {d : Dir} (h : acceptCommand d s = .next t) : t.Inv := by
  obtain ⟨hb, he, hw, ⟨i, -, rfl⟩ | ⟨hv, rfl⟩⟩ := acceptCommand_eq_next.1 h
  · exact hs.faulted hb d i
  · exact hs.started he (checks_pass_iff_validBuffer.1 ⟨hw, hv⟩) d

theorem of_execHostWr (hs : s.Inv) {a : Addr} {v : Word} (h : execHostWr a v s = .next t) : t.Inv := by
  obtain ⟨hb, rfl⟩ := execHostWr_eq_next.1 h
  exact hs.putBuf (Memory.write_wf v hs.memory a.isLt) (by simp [hb])

theorem of_execHostRd (hs : s.Inv) {a : Addr} (h : execHostRd a s = .next t) : t.Inv := by
  obtain ⟨-, w, -, rfl⟩ := execHostRd_eq_next.1 h
  exact hs.reply _

theorem of_step (hs : s.Inv) (h : step s = .next t) : t.Inv := by
  cases step_cases h with
  | reset ts _ ht => subst ht; exact of_applyReset
  | command _ ts _ d ht => exact (hs.putTurns ts).of_acceptCommand ht
  | write _ ts _ a v ht => exact (hs.putTurns ts).of_execHostWr ht
  | read _ ts _ a ht => exact (hs.putTurns ts).of_execHostRd ht
  | status ts _ ht => subst ht; exact (hs.putTurns ts).reply _
  | waitOver ts _ _ ht => subst ht; exact hs.putTurns ts
  | idle ts _ _ ht => subst ht; exact hs.putTurns ts
  | microOp ts _ hb ht => exact (hs.putTurns ts).of_microOp hb ht

end State.Inv

/-- Settles O42: each operation a step can be keeps the invariant. -/
theorem stepKeepsInvariant : Obligations.StepKeepsInvariant := fun _ _ hs h => hs.of_step h

/-- Settles O41: field by field at the values of R38. -/
theorem resetSatisfiesInvariant : Obligations.ResetSatisfiesInvariant := inv_reset

end Sys2Proof.Machine

/-! ## Who writes which register -/

namespace Sys2Proof.Machine

variable {s t : State} {ts : List Turn}

/-- `OP`, `ERR` and `ERRIDX` are as before, and so are `BUSY` and `DONE` unless a transform has completed. -/
def KeepsRegisters (s t : State) : Prop :=
  t.op = s.op ∧ t.err = s.err ∧ t.erridx = s.erridx ∧
    ((t.busy = s.busy ∧ t.done = s.done) ∨ (s.busy = true ∧ t.busy = false ∧ t.done = true))

theorem KeepsRegisters.of_eq (hop : t.op = s.op) (herr : t.err = s.err) (hidx : t.erridx = s.erridx)
    (hb : t.busy = s.busy) (hd : t.done = s.done) : KeepsRegisters s t :=
  ⟨hop, herr, hidx, .inl ⟨hb, hd⟩⟩

theorem keepsRegisters_of_sequenced (hb : s.busy = true) (h : Sequenced s t) : KeepsRegisters s t := by
  cases h with
  | advance _ => exact .of_eq rfl rfl rfl rfl rfl
  | toScale _ => exact .of_eq rfl rfl rfl rfl rfl
  | complete => exact ⟨rfl, rfl, rfl, .inr ⟨hb, rfl, rfl⟩⟩

theorem keepsRegisters_of_microOp (hb : s.busy = true) (h : MicroOp s t) : KeepsRegisters s t := by
  obtain ⟨m, -, hseq⟩ := microOp_next h
  exact keepsRegisters_of_sequenced (s := s.putBuf m) hb hseq

/-- Of the operations a step can be, only `RESET`, acceptance and completion write these registers. -/
theorem step_writers (h : step s = .next t) :
    (∃ ts, s.turns = .host .reset :: ts) ∨
    (∃ op ts, s.turns = .host (.command op) :: ts ∧ s.busy = false ∧ s.err = false) ∨ KeepsRegisters s t := by
  cases step_cases h with
  | reset ts hts _ => exact .inl ⟨ts, hts⟩
  | command op ts hts d ht =>
    obtain ⟨hb, he, -⟩ := acceptCommand_eq_next.1 ht
    exact .inr (.inl ⟨op, ts, hts, hb, he⟩)
  | write _ ts _ a v ht =>
    obtain ⟨-, rfl⟩ := execHostWr_eq_next.1 ht
    exact .inr (.inr (.of_eq rfl rfl rfl rfl rfl))
  | read _ ts _ a ht =>
    obtain ⟨-, w, -, rfl⟩ := execHostRd_eq_next.1 ht
    exact .inr (.inr (.of_eq rfl rfl rfl rfl rfl))
  | status ts _ ht => subst ht; exact .inr (.inr (.of_eq rfl rfl rfl rfl rfl))
  | waitOver ts _ _ ht => subst ht; exact .inr (.inr (.of_eq rfl rfl rfl rfl rfl))
  | idle ts _ _ ht => subst ht; exact .inr (.inr (.of_eq rfl rfl rfl rfl rfl))
  | microOp ts _ hb ht => exact .inr (.inr (keepsRegisters_of_microOp (s := s.putTurns ts) hb ht))

/-- Settles O40, by the case of the step. -/
theorem registersChangeOnlyByTheirWriters : Obligations.RegistersChangeOnlyByTheirWriters :=
  fun _ _ h => step_writers h

/-- Settles O45: commands and requests need `BUSY = 0`, and `WAIT` is the only move that gives the engine its turn. -/
theorem hostCannotDisturbTransform : Obligations.HostCannotDisturbTransform := by
  intro s t m ts hb hts hreset hwait h
  cases step_cases h with
  | reset _ h' _ => cases hts.symm.trans h'; exact absurd rfl hreset
  | command _ _ _ d ht =>
    obtain ⟨hidle, -⟩ := acceptCommand_eq_next.1 ht
    simp [hb] at hidle
  | write _ _ _ a v ht =>
    obtain ⟨hidle, -⟩ := execHostWr_eq_next.1 ht
    simp [hb] at hidle
  | read _ _ _ a ht =>
    obtain ⟨hidle, -⟩ := execHostRd_eq_next.1 ht
    simp [hb] at hidle
  | status _ h' ht =>
    cases hts.symm.trans h'
    subst ht
    exact ⟨rfl, rfl, rfl, rfl, rfl, rfl⟩
  | waitOver _ h' _ _ => cases hts.symm.trans h'; exact absurd rfl hwait
  | idle _ hl _ _ => exact absurd (hl.host_move_eq_wait hts) hwait
  | microOp _ hl _ _ => exact absurd (hl.host_move_eq_wait hts) hwait

end Sys2Proof.Machine

/-! ## Single moves: what each presents, answers or is refused with -/

namespace Sys2Proof.Machine

open Sys2Proof.Config

variable {s t : State} {ts : List Turn} {d : Dir} {a : Addr} {v : Word}

/-- Settles O5: the step of a fetched word is `exec`, and fetching takes at most the turn. -/
theorem stepRunsDecodedInstruction : Obligations.StepRunsDecodedInstruction := by
  intro s s0 w i hf hi
  refine ⟨?_, fetch_keeps_block (by rw [hf]; rfl)⟩
  rw [step, hf]
  simp only [runWord, hi]

/-- Settles O6, by the rules for `fetch` of each turn. -/
theorem turnsPresentTheirWords : Obligations.TurnsPresentTheirWords := by
  refine ⟨fun _ _ _ h => fetch_command h, fun _ _ _ h => fetch_request h, fun s c h hb hc => ?_,
    fun s c ts h hb hc => ?_⟩
  · have hf := fetch_leftToEngine (.unscheduled h)
    rw [putTurns_of_turns_eq h] at hf
    exact hf.trans (engineTurn_of_uopCode hb hc)
  · exact (fetch_leftToEngine (.scheduled h)).trans (engineTurn_of_uopCode (s := s.putTurns ts) hb hc)

/-- Settles O7, by the rule for a status read's turn. -/
theorem statusReadAnswersOutputs : Obligations.StatusReadAnswersOutputs := fun _ _ h => step_readStatus h

/-- Settles O8, by the rule for a reset's turn and the fields of `State.applyReset`. -/
theorem resetStepGivesResetValues : Obligations.ResetStepGivesResetValues :=
  ⟨fun s ts h => ⟨(s.putTurns ts).applyReset, step_reset h, fun a => Memory.read_nil a,
    rfl, rfl, rfl, rfl, rfl, rfl, rfl, rfl, rfl⟩, rfl, rfl, rfl, rfl, rfl, rfl, rfl, rfl⟩

theorem execHostRd_of_busy (hb : s.busy = true) : execHostRd a s = .refused .bufferAccessWhileBusy := if_pos hb

theorem execHostWr_of_busy (hb : s.busy = true) : execHostWr a v s = .refused .bufferAccessWhileBusy := if_pos hb

theorem acceptCommand_of_busy (hb : s.busy = true) : acceptCommand d s = .refused .commandWhileBusy := if_pos hb

theorem acceptCommand_of_err (hb : s.busy = false) (he : s.err = true) :
    acceptCommand d s = .refused .commandWhileErr := by
  simp [acceptCommand, hb, he]

/-- Settles O13: the accesses look at `BUSY` first, acceptance at `BUSY`, then `ERR`. -/
theorem movesNotEnabledAreRefused : Obligations.MovesNotEnabledAreRefused :=
  ⟨fun _ _ _ hb =>
      ⟨execHostRd_of_busy hb, execHostWr_of_busy hb, acceptCommand_of_busy hb, acceptCommand_of_busy hb⟩,
    fun _ hb he => ⟨acceptCommand_of_err hb he, acceptCommand_of_err hb he⟩⟩

theorem memRead_of_unwritten {m : Memory} {i : Nat} (hi : i < N) (h : Memory.read m i = none) :
    memRead m i = .refused (.unwrittenWord i) := by
  simp [memRead, hi, h]

theorem execHostRd_of_unwritten (hb : s.busy = false) (h : Memory.read s.buf a.toNat = none) :
    execHostRd a s = .refused (.unwrittenWord a.toNat) := by
  simp [execHostRd, hb, memRead_of_unwritten a.isLt h]

theorem acceptCommand_of_unwritten {i : Nat} (hb : s.busy = false) (he : s.err = false)
    (h : firstUnwritten s.buf = some i) : acceptCommand d s = .refused (.unwrittenWord i) := by
  simp [acceptCommand, hb, he, h]

/-- Settles O14: the address given is the one `firstUnwritten` finds. -/
theorem unwrittenWordsAreRefused : Obligations.UnwrittenWordsAreRefused := by
  refine ⟨fun _ _ hb h => execHostRd_of_unwritten hb h, fun s i hb he hi hnone hbelow => ?_⟩
  have hfirst : firstUnwritten s.buf = some i :=
    firstUnwritten_eq_some.2 ⟨hi, hnone, fun j hj => Option.isSome_iff_ne_none.2 (hbelow j hj)⟩
  exact ⟨acceptCommand_of_unwritten hb he hfirst, acceptCommand_of_unwritten hb he hfirst⟩

/-- Settles O34: each micro-op's own condition is its guard. -/
theorem microOpsNeedTheirPhase : Obligations.MicroOpsNeedTheirPhase :=
  fun _ => ⟨fun h => if_neg h, fun h => if_neg h, fun h => if_neg h⟩

/-- A command on a valid buffer is accepted (R32). -/
theorem acceptCommand_of_valid (hb : s.busy = false) (he : s.err = false) (hv : validBuffer s.buf) :
    acceptCommand d s = .next (s.latchCommand d).start := by
  obtain ⟨hw, hi⟩ := checks_pass_iff_validBuffer.2 hv
  exact acceptCommand_eq_next.2 ⟨hb, he, hw, .inr ⟨hi, rfl⟩⟩

/-- Settles O37: both checks of acceptance pass on a valid buffer. -/
theorem commandAcceptedOnValidBuffer : Obligations.CommandAcceptedOnValidBuffer :=
  fun _ hb he hv => ⟨acceptCommand_of_valid hb he hv, acceptCommand_of_valid hb he hv⟩

end Sys2Proof.Machine

/-! ## The sequencer's order is the loop nest

Stage `l` of either transform visits the pairs `fwdPairAt l b` for `b = 0 .. 127`; the loop nests of R134 and R157
visit the same pairs in the same order. Everything is stated over any twiddle words. -/

namespace Sys2Proof.Machine

open Sys2Proof.Config

/-- Nested loops over `m` and `n` are one loop over `m * n`. -/
theorem foldl_range_mul {α : Type} (f : α → Nat → α) (m n : Nat) (x : α) :
    (List.range (m * n)).foldl f x =
      (List.range m).foldl (fun y i => (List.range n).foldl (fun z r => f z (i * n + r)) y) x := by
  induction m with
  | zero => simp
  | succ m ih => simp [Nat.succ_mul, List.range_add, List.range_succ, List.foldl_map, ih]

/-! ### Pairs -/

/-- Butterfly `r` of group `i` of forward stage `l` (R131). -/
theorem fwdPairAt_group {l i r : Nat} (hr : r < 2 ^ (7 - l)) (hl : l < 8) :
    fwdPairAt l (i * 2 ^ (7 - l) + r) =
      { lo := i * (2 * 2 ^ (7 - l)) + r, hi := i * (2 * 2 ^ (7 - l)) + r + 2 ^ (7 - l), rom := 2 ^ l + i } := by
  have hhalf : 128 >>> l = 2 ^ (7 - l) := by
    rw [Nat.shiftRight_eq_div_pow, show 128 = 2 ^ 7 from rfl, Nat.pow_div (by omega) (by decide)]
  have hpos : 0 < 2 ^ (7 - l) := by positivity
  have hdiv : (i * 2 ^ (7 - l) + r) / 2 ^ (7 - l) = i := by
    rw [Nat.mul_comm, Nat.mul_add_div hpos, Nat.div_eq_of_lt hr, Nat.add_zero]
  have hmod : (i * 2 ^ (7 - l) + r) % 2 ^ (7 - l) = r := by
    rw [Nat.mul_comm, Nat.mul_add_mod, Nat.mod_eq_of_lt hr]
  simp only [fwdPairAt, hhalf, hdiv, hmod, Nat.one_shiftLeft, Nat.mul_assoc]

/-- Inverse stage `l` has the pairs of forward stage `7 - l` (R150). -/
theorem invPairAt_eq_fwdPairAt {l : Nat} (hl : l < 8) (b : Nat) : invPairAt l b = fwdPairAt (7 - l) b := by
  have h1 : 1 <<< l = 128 >>> (7 - l) := by interval_cases l <;> rfl
  have h2 : 128 >>> l = 1 <<< (7 - l) := by interval_cases l <;> rfl
  simp only [invPairAt, fwdPairAt, h1, h2]

/-- A pair lies in the buffer and its ROM address exists (R53). -/
structure Pair.InRange (p : Pair) : Prop where
  lo_lt : p.lo < N
  hi_lt : p.hi < N
  rom_pos : 1 ≤ p.rom
  rom_le : p.rom ≤ ROMDEPTH

theorem fwdPairAt_inRange {l b : Nat} (hl : l < 8) (hb : b < 128) : (fwdPairAt l b).InRange := by
  interval_cases l <;> constructor <;> simp only [fwdPairAt, N, ROMDEPTH, Nat.reduceShiftLeft, Nat.reduceShiftRight] <;>
    omega

theorem stageOf_lt (k : BitVec 10) : stageOf k < 8 := by
  have := k.isLt
  unfold stageOf
  omega

theorem bflyOf_lt (k : BitVec 10) : bflyOf k < 128 := Nat.mod_lt _ (by decide)

theorem fwdPair_inRange (k : BitVec 10) : (fwdPair k).InRange := fwdPairAt_inRange (stageOf_lt k) (bflyOf_lt k)

theorem invPair_inRange (k : BitVec 10) : (invPair k).InRange := by
  rw [invPair, invPairAt_eq_fwdPairAt (stageOf_lt k)]
  exact fwdPairAt_inRange (by omega) (bflyOf_lt k)

/-- Position `l * 128 + b` is butterfly `b` of stage `l` (R28). -/
theorem stageOf_bflyOf_ofNat {l b : Nat} (hl : l < 8) (hb : b < 128) :
    stageOf (BitVec.ofNat 10 (l * 128 + b)) = l ∧ bflyOf (BitVec.ofNat 10 (l * 128 + b)) = b := by
  simp only [stageOf, bflyOf, BitVec.toNat_ofNat]
  omega

/-! ### Stages -/

variable (comb : Nat → Nat → Nat → Nat × Nat) (tw : Twiddles)

/-- The 128 butterflies of a stage in the sequencer's order. -/
def stageInSequence (l : Nat) (p : Coeffs) : Coeffs :=
  (List.range 128).foldl (fun p b => combineAt comb tw p (fwdPairAt l b)) p

/-- A stage, group by group. -/
theorem stageInSequence_eq_groups {l : Nat} (hl : l < 8) (p : Coeffs) :
    stageInSequence comb tw l p =
      (List.range (2 ^ l)).foldl (fun p i =>
        (List.range (2 ^ (7 - l))).foldl (fun p r =>
          combineAt comb tw p
            { lo := i * (2 * 2 ^ (7 - l)) + r, hi := i * (2 * 2 ^ (7 - l)) + r + 2 ^ (7 - l), rom := 2 ^ l + i }) p)
        p := by
  have h128 : 128 = 2 ^ l * 2 ^ (7 - l) := by rw [← pow_add, Nat.add_sub_cancel' (by omega : l ≤ 7)]; rfl
  rw [stageInSequence, h128, foldl_range_mul]
  refine List.foldl_ext _ _ _ fun q i _ => List.foldl_ext _ _ _ fun q r hr => ?_
  rw [fwdPairAt_group (List.mem_range.1 hr) hl]

theorem fwdStageWith_eq_stageInSequence {l : Nat} (hl : l < 8) (p : Coeffs) :
    fwdStageWith tw (2 ^ l) (2 ^ (8 - l)) p = stageInSequence ctOut tw l p := by
  have ht : 2 ^ (8 - l) = 2 * 2 ^ (7 - l) := by rw [← pow_succ', show 7 - l + 1 = 8 - l by omega]
  rw [stageInSequence_eq_groups _ _ hl, fwdStageWith, ht, Nat.mul_div_cancel_left _ (by decide)]

theorem invStageWith_eq_stageInSequence {l : Nat} (hl : l < 8) (p : Coeffs) :
    invStageWith tw (2 ^ l) (2 ^ (7 - l)) p = stageInSequence gsOut tw l p := by
  rw [stageInSequence_eq_groups _ _ hl, invStageWith]

/-! ### Whole transforms -/

/-- After `l` stages, `n` are left: the outer loop of R134. -/
theorem fwdLoopWith_eq_foldl (n l : Nat) (h : l + n = 8) (p : Coeffs) :
    fwdLoopWith tw n (2 ^ l) (2 ^ n) p = (List.range' l n).foldl (fun p l => stageInSequence ctOut tw l p) p := by
  induction n generalizing l p with
  | zero => rfl
  | succ n ih =>
    have hstage : fwdStageWith tw (2 ^ l) (2 ^ (n + 1)) p = stageInSequence ctOut tw l p := by
      rw [← fwdStageWith_eq_stageInSequence tw (by omega : l < 8), show 8 - l = n + 1 by omega]
    have ht : 2 ^ (n + 1) / 2 = 2 ^ n := by rw [pow_succ, Nat.mul_div_cancel _ (by decide)]
    rw [fwdLoopWith, hstage, ht, ← pow_succ', ih (l + 1) (by omega), List.range'_succ, List.foldl_cons]

/-- The forward transform is its eight stages (R134). -/
theorem nttFwdWith_eq_foldl (p : Coeffs) :
    nttFwdWith tw p = (List.range 8).foldl (fun p l => stageInSequence ctOut tw l p) p := by
  rw [List.range_eq_range']
  exact fwdLoopWith_eq_foldl tw 8 0 rfl p

/-- After `l` stages, `n` are left: the outer loop of R157. -/
theorem invLoopWith_eq_foldl (n l : Nat) (h : l + n = 8) (p : Coeffs) :
    invLoopWith tw n (2 ^ n) (2 ^ l) p =
      (List.range' l n).foldl (fun p l => stageInSequence gsOut tw (7 - l) p) p := by
  induction n generalizing l p with
  | zero => rfl
  | succ n ih =>
    have hm : 2 ^ (n + 1) / 2 = 2 ^ n := by rw [pow_succ, Nat.mul_div_cancel _ (by decide)]
    have hstage : invStageWith tw (2 ^ n) (2 ^ l) p = stageInSequence gsOut tw (7 - l) p := by
      rw [← invStageWith_eq_stageInSequence tw (by omega : 7 - l < 8), show 7 - l = n by omega,
        show 7 - n = l by omega]
    rw [invLoopWith, hm, hstage, ← pow_succ', ih (l + 1) (by omega), List.range'_succ, List.foldl_cons]

/-- The inverse transform is the eight stages backwards, then the scaling pass (R157). -/
theorem nttInvWith_eq_foldl (p : Coeffs) :
    nttInvWith tw p = scaleAll ((List.range 8).foldl (fun p l => stageInSequence gsOut tw (7 - l) p) p) := by
  rw [List.range_eq_range']
  exact congrArg scaleAll (invLoopWith_eq_foldl tw 8 0 rfl p)

/-- 1024 positions are 8 stages of 128 butterflies. -/
theorem foldl_positions_eq_stages {pairAt : Nat → Nat → Pair} {stage : Nat → Nat}
    (hpair : ∀ l < 8, ∀ b, pairAt l b = fwdPairAt (stage l) b) (p : Coeffs) :
    (List.range NBFLY).foldl (fun p k => combineAt comb tw p
        (pairAt (stageOf (BitVec.ofNat 10 k)) (bflyOf (BitVec.ofNat 10 k)))) p =
      (List.range 8).foldl (fun p l => stageInSequence comb tw (stage l) p) p := by
  rw [show NBFLY = 8 * 128 from rfl, foldl_range_mul]
  refine List.foldl_ext _ _ _ fun q l hl => List.foldl_ext _ _ _ fun q b hb => ?_
  obtain ⟨hs, hb'⟩ := stageOf_bflyOf_ofNat (List.mem_range.1 hl) (List.mem_range.1 hb)
  rw [hs, hb', hpair l (List.mem_range.1 hl)]

/-- R134, both forms. -/
theorem nttFwdFn_eq_fwdInSequence (p : Coeffs) : nttFwdFn p = fwdInSequence p :=
  (nttFwdWith_eq_foldl _ p).trans (foldl_positions_eq_stages (stage := id) _ _ (fun _ _ _ => rfl) p).symm

/-- R157, both forms. -/
theorem nttInvFn_eq_invInSequence (p : Coeffs) : nttInvFn p = invInSequence p :=
  (nttInvWith_eq_foldl _ p).trans
    (congrArg scaleAll (foldl_positions_eq_stages _ _ (fun _ hl b => invPairAt_eq_fwdPairAt hl b) p).symm)

end Sys2Proof.Machine

/-! ## A command's run

The buffer between two micro-ops represents the numbers the transform functions compute with (`Represents`); one engine
step is one butterfly or one scaling of these numbers, so a run of engine steps is a fold. -/

namespace Sys2Proof.Machine

open Sys2Proof.Config

/-! ### The datapath computes the functions -/

/-- A canonical buffer of residues whose numbers are `p`. -/
structure Represents (m : Memory) (p : Coeffs) : Prop where
  wf : Memory.wf m
  valid : validBuffer m
  words : wordsOf m = p

section Datapath

variable {m : Memory} {p : Coeffs}

theorem wordsOf_memWrite (m : Memory) (a : Nat) {v : Nat} (hv : v < Q) :
    wordsOf (memWrite m a v) = setAt (wordsOf m) a v := by
  funext x
  simp only [wordsOf, read_memWrite, setAt]
  split
  · exact toNat_ofNat_of_lt_Q hv
  · rfl

theorem Represents.memWrite (hm : Represents m p) {a v : Nat} (ha : a < N) (hv : v < Q) :
    Represents (memWrite m a v) (setAt p a v) where
  wf := memWrite_wf v hm.wf ha
  valid := validBuffer_memWrite hm.valid a hv
  words := by rw [wordsOf_memWrite m a hv, hm.words]

theorem Represents.readResidue (hm : Represents m p) {a : Nat} (ha : a < N) : readResidue m a = .next (p a) :=
  hm.words ▸ readResidue_of_validBuffer hm.valid ha

/-- A butterfly on a represented buffer goes on, and is the combination at its pair (R132, R152). -/
theorem Represents.butterfly (hm : Represents m p) {rom : Space} (hrom : rom ≠ .buf) {pr : Pair} (hpr : pr.InRange)
    {comb : Nat → Nat → Nat → Nat × Nat} (hcomb : ResidueComb comb) :
    ∃ m', butterfly m rom pr comb = .next m' ∧ Represents m' (combineAt comb (romWord rom) p pr) := by
  obtain ⟨h1, h2⟩ := hcomb (p pr.lo) (p pr.hi) (romWord rom pr.rom)
  refine ⟨_, butterfly_eq_next.2 ⟨_, _, _, hm.readResidue hpr.lo_lt, hm.readResidue hpr.hi_lt,
    romWord?_eq_some hrom hpr.rom_pos hpr.rom_le, rfl⟩, ?_⟩
  exact (hm.memWrite hpr.lo_lt h1).memWrite hpr.hi_lt h2

/-- A scaling on a represented buffer goes on, and scales its position (R155). -/
theorem Represents.scaleWord (hm : Represents m p) {j : Nat} (hj : j < N) :
    ∃ m', scaleWord m j = .next m' ∧ Represents m' (setAt p j (scaleOut (p j))) :=
  ⟨_, scaleWord_eq_next.2 ⟨_, hm.readResidue hj, rfl⟩, hm.memWrite hj (scaleOut_lt _)⟩

end Datapath

/-! ### One engine step inside a transform -/

variable {s : State} {m : Memory} {p : Coeffs} {d : Dir}

/-- The block inside a transform, with nothing scheduled. -/
def State.engineAt (s : State) (d : Dir) (ph : Phase) (k : BitVec 10) (m : Memory) : State :=
  { s with buf := m, op := d, busy := true, done := false, phase := ph, k := k, turns := [] }

/-- The block after a completed transform, with nothing scheduled. -/
def State.completedWith (s : State) (d : Dir) (m : Memory) : State :=
  { s with buf := m, op := d, busy := false, done := true, phase := .idle, k := 0#10, turns := [] }

/-- The butterfly of a direction at a position (R131, R151). -/
def bflyAt : Dir → Coeffs → BitVec 10 → Coeffs
  | .fwd, p, k => ctAt p (fwdPair k)
  | .inv, p, k => gsAt p (invPair k)

/-- What follows a butterfly of a direction (R33, R34). -/
def afterBfly : Dir → State → State
  | .fwd => afterCt
  | .inv => afterGs

/-- With nothing scheduled and `BUSY = 1`, the step is the micro-op of the code the sequencer generates. -/
theorem step_of_uopCode {c : BitVec 2} (hts : s.turns = []) (hb : s.busy = true)
    (hc : uopCode s.phase s.op = some c) : step s = runWord (.uop c) s := by
  rw [step, fetch_leftToEngine (.unscheduled hts), putTurns_of_turns_eq hts, engineTurn_of_uopCode hb hc]

theorem step_bfly (hm : Represents m p) (s : State) (d : Dir) (k : BitVec 10) :
    ∃ m', step (s.engineAt d .bfly k m) = .next (afterBfly d (s.engineAt d .bfly k m')) ∧
      Represents m' (bflyAt d p k) := by
  cases d with
  | fwd =>
    obtain ⟨m', hb, hm'⟩ := hm.butterfly (rom := .twf) (by decide) (fwdPair_inRange k) residueComb_ctOut
    have hexec : execBflyCt (s.engineAt .fwd .bfly k m) = .next (afterCt (s.engineAt .fwd .bfly k m')) :=
      execBflyCt_eq_next.2 ⟨⟨rfl, rfl, rfl⟩, m', hb, rfl⟩
    exact ⟨m', (step_of_uopCode (c := 0#2) rfl rfl rfl).trans hexec, hm'⟩
  | inv =>
    obtain ⟨m', hb, hm'⟩ := hm.butterfly (rom := .twi) (by decide) (invPair_inRange k) residueComb_gsOut
    have hexec : execBflyGs (s.engineAt .inv .bfly k m) = .next (afterGs (s.engineAt .inv .bfly k m')) :=
      execBflyGs_eq_next.2 ⟨⟨rfl, rfl, rfl⟩, m', hb, rfl⟩
    exact ⟨m', (step_of_uopCode (c := 1#2) rfl rfl rfl).trans hexec, hm'⟩

theorem step_scale (hm : Represents m p) (s : State) (d : Dir) {k : BitVec 10} (hk : k.toNat < N) :
    ∃ m', step (s.engineAt d .scale k m) = .next (afterScale (s.engineAt d .scale k m')) ∧
      Represents m' (setAt p k.toNat (scaleOut (p k.toNat))) := by
  obtain ⟨m', hw, hm'⟩ := hm.scaleWord hk
  have hexec : execScale (s.engineAt d .scale k m) = .next (afterScale (s.engineAt d .scale k m')) :=
    execScale_eq_next.2 ⟨⟨rfl, rfl⟩, m', hw, rfl⟩
  exact ⟨m', (step_of_uopCode (c := 2#2) rfl rfl rfl).trans hexec, hm'⟩

/-! ### Runs of engine steps -/

theorem stepN_add (a b : Nat) (s : State) : stepN (a + b) s = andThen (stepN a s) (stepN b) := by
  induction a generalizing s with
  | zero => simp [stepN]
  | succ a ih =>
    rw [Nat.succ_add, stepN, stepN]
    cases step s with
    | next t => exact ih t
    | fault _ => rfl
    | refused _ => rfl

theorem stepN_one (s : State) : stepN 1 s = step s := by
  rw [stepN]
  cases step s <;> rfl

/-- Steps that each move a counter by one and apply `f` at it to the numbers of the buffer: a run of them is a fold. -/
theorem stepN_fold {run : Nat → Memory → State} {f : Coeffs → Nat → Coeffs} {bound : Nat}
    (hstep : ∀ n < bound, ∀ m p, Represents m p →
      ∃ m', step (run n m) = .next (run (n + 1) m') ∧ Represents m' (f p n))
    (hm : Represents m p) (n : Nat) (hn : n ≤ bound) :
    ∃ m', stepN n (run 0 m) = .next (run n m') ∧ Represents m' ((List.range n).foldl f p) := by
  induction n with
  | zero => exact ⟨m, rfl, hm⟩
  | succ n ih =>
    obtain ⟨m₁, h₁, hm₁⟩ := ih (by omega)
    obtain ⟨m₂, h₂, hm₂⟩ := hstep n (by omega) m₁ _ hm₁
    refine ⟨m₂, ?_, by simpa [List.range_succ] using hm₂⟩
    rw [stepN_add, h₁, andThen_next, stepN_one, h₂]

/-- Engine steps 0 to 1023: the butterflies before the last. -/
theorem stepN_bfly (hm : Represents m p) (s : State) (d : Dir) (n : Nat) (hn : n ≤ 1023) :
    ∃ m', stepN n (s.engineAt d .bfly 0#10 m) = .next (s.engineAt d .bfly (BitVec.ofNat 10 n) m') ∧
      Represents m' ((List.range n).foldl (fun p k => bflyAt d p (BitVec.ofNat 10 k)) p) := by
  refine stepN_fold (run := fun n => s.engineAt d .bfly (BitVec.ofNat 10 n)) (fun n hn m p hm => ?_) hm n hn
  obtain ⟨m', hs, hm'⟩ := step_bfly hm s d (BitVec.ofNat 10 n)
  have hne : BitVec.ofNat 10 n ≠ 1023#10 := by bv_omega
  refine ⟨m', ?_, hm'⟩
  rw [hs, BitVec.ofNat_add]
  cases d with
  | fwd => exact congrArg _ (if_neg hne)
  | inv => exact congrArg _ (if_neg hne)

/-- Engine steps 0 to 255 of the scaling pass: the scalings before the last. -/
theorem stepN_scale (hm : Represents m p) (s : State) (d : Dir) (n : Nat) (hn : n ≤ 255) :
    ∃ m', stepN n (s.engineAt d .scale 0#10 m) = .next (s.engineAt d .scale (BitVec.ofNat 10 n) m') ∧
      Represents m' ((List.range n).foldl (fun p j => setAt p j (scaleOut (p j))) p) := by
  refine stepN_fold (run := fun n => s.engineAt d .scale (BitVec.ofNat 10 n)) (fun n hn m p hm => ?_) hm n hn
  have hk : (BitVec.ofNat 10 n).toNat = n := by bv_omega
  have hne : BitVec.ofNat 10 n ≠ 255#10 := by bv_omega
  obtain ⟨m', hs, hm'⟩ := step_scale hm s d (k := BitVec.ofNat 10 n) (by rw [hk]; exact lt_trans hn (by decide))
  refine ⟨m', ?_, hk ▸ hm'⟩
  rw [hs, BitVec.ofNat_add]
  exact congrArg _ (if_neg hne)

/-- The 1024 butterflies of a direction, the last one with what follows it. -/
theorem stepN_all_bfly (hm : Represents m p) (s : State) (d : Dir) :
    ∃ m', stepN NBFLY (s.engineAt d .bfly 0#10 m) = .next (afterBfly d (s.engineAt d .bfly 1023#10 m')) ∧
      Represents m' ((List.range NBFLY).foldl (fun p k => bflyAt d p (BitVec.ofNat 10 k)) p) := by
  obtain ⟨m₁, h₁, hm₁⟩ := stepN_bfly hm s d 1023 le_rfl
  obtain ⟨m₂, h₂, hm₂⟩ := step_bfly hm₁ s d 1023#10
  refine ⟨m₂, ?_, ?_⟩
  · rw [show NBFLY = 1023 + 1 from rfl, stepN_add, h₁, andThen_next, stepN_one, h₂]
  · rw [show NBFLY = 1023 + 1 from rfl, List.range_succ, List.foldl_append]
    exact hm₂

theorem stepN_all_scale (hm : Represents m p) (s : State) (d : Dir) :
    ∃ m', stepN N (s.engineAt d .scale 0#10 m) = .next (s.completedWith d m') ∧ Represents m' (scaleAll p) := by
  obtain ⟨m₁, h₁, hm₁⟩ := stepN_scale hm s d 255 le_rfl
  obtain ⟨m₂, h₂, hm₂⟩ := step_scale hm₁ s d (k := 255#10) (by decide)
  refine ⟨m₂, ?_, ?_⟩
  · rw [show N = 255 + 1 from rfl, stepN_add, h₁, andThen_next, stepN_one, h₂]
    rfl
  · rw [scaleAll, show N = 255 + 1 from rfl, List.range_succ, List.foldl_append]
    exact hm₂

/-- The engine steps of a transform: the result is the transform function's (R134, R157). -/
theorem stepN_microOpsOf (hm : Represents m p) (s : State) (d : Dir) :
    ∃ m', stepN (microOpsOf d) (s.engineAt d .bfly 0#10 m) = .next (s.completedWith d m') ∧
      Represents m' (transformFn d p) := by
  obtain ⟨m₁, h₁, hm₁⟩ := stepN_all_bfly hm s d
  cases d with
  | fwd =>
    refine ⟨m₁, h₁, ?_⟩
    rw [transformFn, nttFwdFn_eq_fwdInSequence]
    exact hm₁
  | inv =>
    obtain ⟨m₂, h₂, hm₂⟩ := stepN_all_scale hm₁ s .inv
    refine ⟨m₂, ?_, ?_⟩
    · rw [microOpsOf, stepN_add, h₁, andThen_next]
      exact h₂
    · rw [transformFn, nttInvFn_eq_invInSequence]
      exact hm₂

/-- Before its last engine step a transform is still running (R37). -/
theorem stepN_lt_microOpsOf (hm : Represents m p) (s : State) (d : Dir) {n : Nat} (hn : n < microOpsOf d) :
    ∃ ph k m', stepN n (s.engineAt d .bfly 0#10 m) = .next (s.engineAt d ph k m') := by
  by_cases hlt : n < 1024
  · obtain ⟨m', h, -⟩ := stepN_bfly hm s d n (by omega)
    exact ⟨_, _, m', h⟩
  · cases d with
    | fwd => exact absurd hn hlt
    | inv =>
      obtain ⟨j, rfl⟩ : ∃ j, n = NBFLY + j := Nat.exists_eq_add_of_le (not_lt.1 hlt)
      have hj : j < N := Nat.lt_of_add_lt_add_left hn
      obtain ⟨m₁, h₁, hm₁⟩ := stepN_all_bfly hm s .inv
      obtain ⟨m₂, h₂, -⟩ := stepN_scale hm₁ s .inv j (Nat.le_of_lt_succ hj)
      refine ⟨.scale, BitVec.ofNat 10 j, m₂, ?_⟩
      rw [stepN_add, h₁]
      exact h₂

/-- An accepted command is the first step, and the engine's steps follow (R32). -/
theorem stepN_accepted (hb : s.busy = false) (he : s.err = false) (hv : validBuffer s.buf)
    (hts : s.turns = [moveCommand d]) (n : Nat) :
    stepN (1 + n) s = stepN n (s.engineAt d .bfly 0#10 s.buf) := by
  rw [stepN_add, stepN_one, step_moveCommand hts, acceptCommand_of_valid (s := s.putTurns []) hb he hv]
  rfl

/-- Settles O49: acceptance, then the engine's steps as a fold over the positions. -/
theorem commandRunsToCompletion : Obligations.CommandRunsToCompletion := by
  intro s d hs hb he hv hts
  have hm : Represents s.buf (wordsOf s.buf) := ⟨hs.memory, hv, rfl⟩
  refine ⟨?_, fun n hn => ?_⟩
  · obtain ⟨m, hrun, hm'⟩ := stepN_microOpsOf hm s d
    obtain ⟨hp, hk⟩ := hs.idle_of_not_busy hb
    have hend : s.completedWith d m = { s with buf := m, op := d, done := true, turns := [] } := by
      rw [State.completedWith, ← hb, ← hp, ← hk]
    refine ⟨m, by rw [stepN_accepted hb he hv hts, hrun, hend], hm'.wf, fun a ha => ?_⟩
    obtain ⟨w, hw, -⟩ := isResidueAt_eq_true.1 (hm'.valid a ha)
    exact ⟨w, hw, by rw [← hm'.words, wordsOf, hw, Option.getD_some]⟩
  · obtain ⟨ph, k, m, hrun⟩ := stepN_lt_microOpsOf hm s d hn
    exact ⟨_, (stepN_accepted hb he hv hts n).trans hrun, rfl, rfl, he⟩

end Sys2Proof.Machine

/-! ## Host buffer accesses -/

namespace Sys2Proof.Machine

variable {s : State} {a : Addr} {v w : Word}

/-- Of two writes to one address the last one stands. -/
@[simp] theorem Memory.write_write_same (m : Memory) (a : Nat) (u v : Word) :
    Memory.write (Memory.write m a u) a v = Memory.write m a v := by
  induction m with
  | nil => simp [Memory.write]
  | cons c m ih =>
    obtain ⟨b, w⟩ := c
    rcases lt_trichotomy a b with hlt | rfl | hgt
    · simp [Memory.write, hlt]
    · simp [Memory.write]
    · simp [Memory.write, hgt.not_gt, hgt.ne', ih]

theorem execHostWr_of_idle (hb : s.busy = false) :
    execHostWr a v s = .next (s.putBuf (Memory.write s.buf a.toNat v)) := execHostWr_eq_next.2 ⟨hb, rfl⟩

theorem execHostRd_of_written (hb : s.busy = false) (h : Memory.read s.buf a.toNat = some w) :
    execHostRd a s = .next (s.reply (.word w)) := execHostRd_eq_next.2 ⟨hb, w, h, rfl⟩

/-- Settles O10: the next state is `s` with one word written, and the laws of `Memory.write` do the rest. -/
theorem hostWriteStoresItsWord : Obligations.HostWriteStoresItsWord :=
  fun s a v hb => ⟨s.putBuf (Memory.write s.buf a.toNat v), execHostWr_of_idle hb, Memory.read_write_same ..,
    fun _ hne => Memory.read_write_other _ _ hne, rfl⟩

/-- Settles O11: the access finds the word and its answer is a reply only. -/
theorem hostReadAnswersItsWord : Obligations.HostReadAnswersItsWord := fun _ _ _ hb h => execHostRd_of_written hb h

/-- Settles O12: read after write, at the same word and at another, and write after write. -/
theorem hostReadReturnsLastWrite : Obligations.HostReadReturnsLastWrite := by
  intro s t a v h
  obtain ⟨hb, rfl⟩ := execHostWr_eq_next.1 h
  refine ⟨execHostRd_of_written hb (Memory.read_write_same ..), execHostWr_eq_next.2 ⟨hb, ?_⟩,
    fun b w hne hw => ?_⟩
  · simp [State.putBuf]
  · have hne' : b.toNat ≠ a.toNat := fun h => hne (BitVec.eq_of_toNat_eq h)
    exact execHostRd_of_written hb ((Memory.read_write_other s.buf v hne').trans hw)

end Sys2Proof.Machine

/-! ## Control never looks at the buffer

The control registers after a step of a running block, as a function (`controlAfter`) of the control registers and the
schedule before it (R62). -/

namespace Sys2Proof.Machine

variable {s t : State} {ts : List Turn}

/-- The control registers (`State.control`) after the micro-op they call for (R33, R34, R35). -/
def controlAfterMicroOp : Bool × Dir × Phase × BitVec 10 → Bool × Dir × Phase × BitVec 10
  | (busy, op, .idle, k) => (busy, op, .idle, k)
  | (busy, .fwd, .bfly, k) =>
    if k = 1023#10 then (false, .fwd, .idle, 0#10) else (busy, .fwd, .bfly, k + 1#10)
  | (busy, .inv, .bfly, k) =>
    if k = 1023#10 then (busy, .inv, .scale, 0#10) else (busy, .inv, .bfly, k + 1#10)
  | (busy, op, .scale, k) =>
    if k = 255#10 then (false, op, .idle, 0#10) else (busy, op, .scale, k + 1#10)

/-- The control registers after a step that goes on while `BUSY = 1`, by the head of the schedule. -/
def controlAfter : List Turn → Bool × Dir × Phase × BitVec 10 → Bool × Dir × Phase × BitVec 10
  | .host .reset :: _, _ => State.reset.control
  | .host .readStatus :: _, c => c
  | _, c => controlAfterMicroOp c

theorem control_afterCt (hp : s.phase = .bfly) (hop : s.op = .fwd) :
    (afterCt s).control = controlAfterMicroOp s.control := by
  by_cases hk : s.k = 1023#10 <;> simp [afterCt, State.control, controlAfterMicroOp, hp, hop, hk]

theorem control_afterGs (hp : s.phase = .bfly) (hop : s.op = .inv) :
    (afterGs s).control = controlAfterMicroOp s.control := by
  by_cases hk : s.k = 1023#10 <;> simp [afterGs, State.control, controlAfterMicroOp, hp, hop, hk]

theorem control_afterScale (hp : s.phase = .scale) :
    (afterScale s).control = controlAfterMicroOp s.control := by
  by_cases hk : s.k = 255#10 <;> simp [afterScale, State.control, controlAfterMicroOp, hp, hk]

/-- The words a micro-op writes have no part in where the sequencer goes on. -/
theorem control_of_microOp (h : MicroOp s t) : t.control = controlAfterMicroOp s.control := by
  rcases h with h | h | h
  · obtain ⟨⟨-, hp, hop⟩, m, -, rfl⟩ := execBflyCt_eq_next.1 h
    exact control_afterCt (s := s.putBuf m) hp hop
  · obtain ⟨⟨-, hp, hop⟩, m, -, rfl⟩ := execBflyGs_eq_next.1 h
    exact control_afterGs (s := s.putBuf m) hp hop
  · obtain ⟨⟨-, hp⟩, m, -, rfl⟩ := execScale_eq_next.1 h
    exact control_afterScale (s := s.putBuf m) hp

theorem LeftToEngine.controlAfter_eq (h : LeftToEngine s ts) (c : Bool × Dir × Phase × BitVec 10) :
    controlAfter s.turns c = controlAfterMicroOp c := by
  cases h with
  | unscheduled h => rw [h]; rfl
  | scheduled h => rw [h]; rfl
  | polling h _ _ => rw [h]; rfl

/-- While `BUSY = 1` a step that goes on is a reset, a status read or a micro-op: every access and command needs
`BUSY = 0`, and a `WAIT` is not over (R26, R31). -/
theorem step_cases_of_busy (hs : s.Inv) (hb : s.busy = true) (h : step s = .next t) :
    (∃ ts, s.turns = .host .reset :: ts ∧ t = (s.putTurns ts).applyReset) ∨
    (∃ ts, s.turns = .host .readStatus :: ts ∧ t = (s.putTurns ts).reply (statusReply (s.putTurns ts))) ∨
    ∃ ts, LeftToEngine s ts ∧ MicroOp (s.putTurns ts) t := by
  have not_idle : s.busy ≠ false := by simp [hb]
  cases step_cases h with
  | reset ts hts ht => exact .inl ⟨ts, hts, ht⟩
  | command _ _ _ _ ht => exact absurd (acceptCommand_eq_next.1 ht).1 not_idle
  | write _ _ _ _ _ ht => exact absurd (execHostWr_eq_next.1 ht).1 not_idle
  | read _ _ _ _ ht => exact absurd (execHostRd_eq_next.1 ht).1 not_idle
  | status ts hts ht => exact .inr (.inl ⟨ts, hts, ht⟩)
  | waitOver _ _ hf _ => obtain ⟨hd, he⟩ := hs.done_err_of_busy hb; simp [hd, he] at hf
  | idle _ _ hidle _ => exact absurd hidle not_idle
  | microOp ts hl _ ht => exact .inr (.inr ⟨ts, hl, ht⟩)

theorem control_of_step_of_busy (hs : s.Inv) (hb : s.busy = true) (h : step s = .next t) :
    t.control = controlAfter s.turns s.control := by
  rcases step_cases_of_busy hs hb h with ⟨ts, hts, rfl⟩ | ⟨ts, hts, rfl⟩ | ⟨ts, hl, hm⟩
  · rw [hts]; rfl
  · rw [hts]; rfl
  · rw [hl.controlAfter_eq]
    exact control_of_microOp (s := s.putTurns ts) hm

/-- Settles O44: `controlAfter` takes the control registers and the schedule, which are equal, and no buffer. -/
theorem controlIgnoresTheBuffer : Obligations.ControlIgnoresTheBuffer := by
  intro s s' t t' hs hs' hb hcontrol hturns h h'
  have hb' : s'.busy = true := (congrArg Prod.fst hcontrol).symm.trans hb
  rw [control_of_step_of_busy hs hb h, control_of_step_of_busy hs' hb' h', hcontrol, hturns]

end Sys2Proof.Machine

/-! ## Every ROM address is read -/

namespace Sys2Proof.Machine

/-- ROM address `2^l + i` is that of the first butterfly of group `i` of stage `l` (R131). -/
theorem exists_fwdPairAt_rom_eq {a : Nat} (h1 : 1 ≤ a) (h2 : a ≤ 255) :
    ∃ l < 8, ∃ b < 128, (fwdPairAt l b).rom = a := by
  have hne : a ≠ 0 := by omega
  have hl : a.log2 < 8 := (Nat.log2_lt hne).2 (by omega)
  have hle : 2 ^ a.log2 ≤ a := Nat.log2_self_le hne
  have hgroup : a - 2 ^ a.log2 < 2 ^ a.log2 := by
    have := Nat.lt_log2_self (n := a)
    omega
  refine ⟨a.log2, hl, (a - 2 ^ a.log2) * 2 ^ (7 - a.log2) + 0, ?_, ?_⟩
  · calc (a - 2 ^ a.log2) * 2 ^ (7 - a.log2)
        < 2 ^ a.log2 * 2 ^ (7 - a.log2) := Nat.mul_lt_mul_of_pos_right hgroup (by positivity)
      _ = 128 := by rw [← pow_add, Nat.add_sub_cancel' (by omega : a.log2 ≤ 7)]; rfl
  · rw [fwdPairAt_group (by positivity) hl]
    exact Nat.add_sub_cancel' hle

/-- Settles O29: some stage and butterfly have the address, and both directions run all stages. -/
theorem everyRomAddressIsRead : Obligations.EveryRomAddressIsRead := by
  intro a h1 h2
  obtain ⟨l, hl, b, hb, hrom⟩ := exists_fwdPairAt_rom_eq h1 h2
  refine ⟨⟨BitVec.ofNat 10 (l * 128 + b), ?_⟩, BitVec.ofNat 10 ((7 - l) * 128 + b), ?_⟩
  · obtain ⟨hstage, hbfly⟩ := stageOf_bflyOf_ofNat hl hb
    rw [fwdPair, hstage, hbfly, hrom]
  · obtain ⟨hstage, hbfly⟩ := stageOf_bflyOf_ofNat (by omega : 7 - l < 8) hb
    rw [invPair, hstage, hbfly, invPairAt_eq_fwdPairAt (by omega), Nat.sub_sub_self (by omega), hrom]

end Sys2Proof.Machine

/-! ## Decoding and encoding, format by format -/

namespace Sys2Proof

variable {i : Instr} {we : BitVec 1} {a : Addr} {v : Word}

/-! ### The fields of a BUFREQ word (R73) -/

@[simp] theorem bufreqWord_we : (bufreqWord we a v).extractLsb' 22 1 = we := by
  rw [bufreqWord, BitVec.extractLsb'_append_eq_of_le (by decide : 14 ≤ 22)]
  exact BitVec.extractLsb'_append_eq_left

@[simp] theorem bufreqWord_addr : (bufreqWord we a v).extractLsb' 14 8 = a := by
  rw [bufreqWord, BitVec.extractLsb'_append_eq_of_le (by decide : 14 ≤ 14)]
  exact BitVec.extractLsb'_append_eq_right

@[simp] theorem bufreqWord_wdata : (bufreqWord we a v).extractLsb' 0 14 = v :=
  BitVec.extractLsb'_append_eq_right

theorem bufreqWord_fields (w : BitVec 23) :
    bufreqWord (w.extractLsb' 22 1) (w.extractLsb' 14 8) (w.extractLsb' 0 14) = w := by
  have hhigh : w.extractLsb' 22 1 ++ w.extractLsb' 14 8 = w.extractLsb' 14 9 :=
    BitVec.extractLsb'_append_extractLsb'_eq_extractLsb' rfl
  rw [bufreqWord, hhigh]
  exact BitVec.extractLsb'_append_extractLsb'

/-- Every BUFREQ word is a read's or a write's (R73). -/
theorem bufreq_cases (w : BitVec 23) :
    (∃ a v, w = bufreqWord 0#1 a v) ∨ ∃ a v, w = bufreqWord 1#1 a v := by
  rw [← bufreqWord_fields w]
  rcases BitVec.eq_zero_or_eq_one (w.extractLsb' 22 1) with hwe | hwe <;> rw [hwe]
  · exact .inl ⟨_, _, rfl⟩
  · exact .inr ⟨_, _, rfl⟩

/-! ### What each format decodes to -/

/-- A read request's `wdata` is ignored (U10). -/
@[simp] theorem decodeBufreq_read : decodeBufreq (bufreqWord 0#1 a v) = .hostRd a := by
  simp [decodeBufreq, BitVec.getElem_eq_extractLsb']

@[simp] theorem decodeBufreq_write : decodeBufreq (bufreqWord 1#1 a v) = .hostWr a v := by
  simp [decodeBufreq, BitVec.getElem_eq_extractLsb']

theorem decode_read {w : BitVec 23} (h : w = bufreqWord 0#1 a v) : decode (.bufreq w) = .ok (.hostRd a) := by
  rw [h, decode, decodeBufreq_read]

theorem decode_write {w : BitVec 23} (h : w = bufreqWord 1#1 a v) : decode (.bufreq w) = .ok (.hostWr a v) := by
  rw [h, decode, decodeBufreq_write]

@[simp] theorem encode_decodeCmd (op : BitVec 1) : encode (decodeCmd op) = .cmd op := by
  rcases BitVec.eq_zero_or_eq_one op with rfl | rfl
  · rfl
  · rfl

theorem encode_of_decodeUop {c : BitVec 2} (h : decodeUop c = .ok i) : encode i = .uop c := by
  unfold decodeUop at h
  split_ifs at h with hct hgs hscale <;> cases h
  · rw [hct]; rfl
  · rw [hgs]; rfl
  · rw [hscale]; rfl

theorem decodeUop_isError {c : BitVec 2} : (∃ r, decodeUop c = .error r) ↔ c = 0b11#2 := by
  constructor
  · rintro ⟨r, h⟩
    unfold decodeUop at h
    split_ifs at h
    bv_omega
  · rintro rfl
    exact ⟨.reservedUop, rfl⟩

/-! ### The two directions -/

@[simp] theorem decode_encode (i : Instr) : decode (encode i) = .ok i := by
  cases i with
  | nttFwd | nttInv | bflyCt | bflyGs | scale => rfl
  | hostRd a => exact decode_read rfl
  | hostWr a v => exact decode_write rfl

/-- Decoding is injective up to the `wdata` of a read request. -/
theorem eq_encode_or_read_of_decode {w : PortWord} (h : decode w = .ok i) :
    w = encode i ∨ ∃ a v, i = .hostRd a ∧ w = .bufreq (bufreqWord 0#1 a v) := by
  cases w with
  | cmd op => cases h; exact .inl (encode_decodeCmd op).symm
  | uop c => exact .inl (encode_of_decodeUop h).symm
  | bufreq w =>
    cases h
    obtain ⟨a, v, rfl⟩ | ⟨a, v, rfl⟩ := bufreq_cases w
    · exact .inr ⟨a, v, decodeBufreq_read, rfl⟩
    · rw [decodeBufreq_write]; exact .inl rfl

/-- Settles O1: the fields of a BUFREQ word are read back one by one, and the other formats by their few codes. -/
theorem decodeInvertsEncode : Obligations.DecodeInvertsEncode :=
  ⟨decode_encode, fun _ _ => eq_encode_or_read_of_decode⟩

/-- The one pattern the decoder rejects (R76). -/
theorem decode_isError {w : PortWord} : (∃ r, decode w = .error r) ↔ w = .uop 0b11#2 := by
  cases w with
  | cmd op => simp [decode]
  | uop c => simpa [decode] using decodeUop_isError
  | bufreq w => simp [decode]

/-- Settles O4: each word is put together from its fields, the second read request with a `wdata` of all ones. -/
theorem specWordsDecodeAsListed : Obligations.SpecWordsDecodeAsListed :=
  ⟨decode_encode .nttFwd, decode_encode .nttInv, decode_encode .bflyCt, decode_encode .bflyGs, decode_encode .scale,
    decode_read (v := 0#14) (by decide), decode_read (v := 0x3FFF#14) (by decide), decode_write (by decide),
    decode_write (by decide), decode_write (by decide)⟩

end Sys2Proof

namespace Sys2Proof.Machine

/-! ### The codes of the sequencer (R72) -/

/-- What the sequencer generates the decoder accepts. -/
theorem decode_uopCode {p : Phase} {d : Dir} {c : BitVec 2} (h : uopCode p d = some c) :
    ∃ i, decode (.uop c) = .ok i := by
  cases p with
  | idle => simp [uopCode] at h
  | bfly =>
    cases d with
    | fwd => cases h; exact ⟨.bflyCt, rfl⟩
    | inv => cases h; exact ⟨.bflyGs, rfl⟩
  | scale => cases h; exact ⟨.scale, rfl⟩

/-- Settles O2: the decoder rejects `0b11` alone, and accepts every code of the sequencer. -/
theorem onlyReservedMicroOpIsRejected : Obligations.OnlyReservedMicroOpIsRejected := by
  refine ⟨fun _ => decode_isError, fun _ => rfl, fun p d h => ?_⟩
  obtain ⟨i, hi⟩ := decode_uopCode h
  obtain ⟨r, hr⟩ := decode_isError.2 rfl
  cases hi.symm.trans hr

/-- Settles O3: the codes of the phases decode to their micro-ops, which are their encodings. -/
theorem sequencerIssuesMicroOpOfPhase : Obligations.SequencerIssuesMicroOpOfPhase := by
  intro d
  refine ⟨rfl, ⟨_, rfl, decode_encode .scale⟩, ?_⟩
  cases d with
  | fwd => exact ⟨_, rfl, rfl, decode_encode .bflyCt⟩
  | inv => exact ⟨_, rfl, rfl, decode_encode .bflyGs⟩

end Sys2Proof.Machine

/-! ## The primitives (40_modular_arithmetic.md)

A law of the primitives is either an equation of classes in `Z_Q`, proved there through `modred_eq_modred_iff`, or a
statement about size, proved from what `MODRED` does below `Q` and between `Q` and `2 * Q`. -/

namespace Sys2Proof.Machine

open Sys2Proof.Config

variable {a b m x y r k : Nat}

/-! ### `MODRED` (R91) -/

/-- The value of `Q`, for `omega`, which does not unfold it. -/
theorem Q_eq : Q = 12289 := rfl

theorem modred_of_lt (h : x < Q) : modred x = x := Nat.mod_eq_of_lt h

/-- From `Q` up to `2 * Q` one subtraction reduces. -/
theorem modred_of_le_of_lt (h : Q ≤ x) (h2 : x < 2 * Q) : modred x = x - Q := by
  rw [modred, Nat.mod_eq_sub_mod h, Nat.mod_eq_of_lt (by omega)]

theorem modred_mul_Q_add (k x : Nat) : modred (k * Q + x) = modred x := Nat.mul_add_mod_self_right k Q x

theorem exists_eq_mul_Q_add_modred (x : Nat) : ∃ k, x = k * Q + modred x := ⟨x / Q, (Nat.div_add_mod' x Q).symm⟩

theorem eq_modred_of_eq_mul_Q_add (hr : r < Q) (hx : x = k * Q + r) : r = modred x := by
  rw [hx, modred_mul_Q_add, modred_of_lt hr]

/-! ### Classes in `Z_Q` (R98(c)) -/

@[simp] theorem natCast_modred (x : Nat) : (modred x : ZMod Q) = x := ZMod.natCast_mod x Q

theorem modred_eq_modred_iff : modred x = modred y ↔ (x : ZMod Q) = y := (ZMod.natCast_eq_natCast_iff' x y Q).symm

/-- Residues are canonical: equal classes are equal words. -/
theorem eq_of_natCast_eq (ha : a < Q) (hb : b < Q) (h : (a : ZMod Q) = b) : a = b := by
  rw [← modred_of_lt ha, ← modred_of_lt hb, modred_eq_modred_iff, h]

theorem natCast_biasedDiff (hb : b ≤ Q) : (biasedDiff a b : ZMod Q) = a - b := by
  rw [biasedDiff, Nat.cast_sub (by omega), Nat.cast_add, ZMod.natCast_self, add_zero]

theorem natCast_modadd (a b : Nat) : (modadd a b : ZMod Q) = a + b := by
  rw [modadd, natCast_modred, Nat.cast_add]

theorem natCast_modsub (hb : b ≤ Q) : (modsub a b : ZMod Q) = a - b := by
  rw [modsub, natCast_modred, natCast_biasedDiff hb]

theorem natCast_modmul (a b : Nat) : (modmul a b : ZMod Q) = a * b := by
  rw [modmul, natCast_modred, Nat.cast_mul]

/-! ### The largest intermediates (R96) -/

theorem add_le_of_residues (ha : a < Q) (hb : b < Q) : a + b ≤ 24576 := by
  have := Q_eq
  omega

theorem biasedDiff_le (ha : a < Q) : biasedDiff a b ≤ 24577 := by
  have := Q_eq
  rw [biasedDiff]
  omega

theorem one_le_biasedDiff (hb : b < Q) : 1 ≤ biasedDiff a b := by
  rw [biasedDiff]
  omega

theorem mul_le_of_residue (ha : a ≤ m) (hb : b < Q) : a * b ≤ m * 12288 := Nat.mul_le_mul ha (Nat.le_of_lt_succ hb)

/-! ### The laws of `MODADD`, `MODSUB` and `MODMUL` (R92, R93, R94, R98) -/

theorem modadd_comm (a b : Nat) : modadd a b = modadd b a := by rw [modadd, modadd, Nat.add_comm]

theorem modadd_zero (ha : a < Q) : modadd a 0 = a := modred_of_lt ha

theorem modadd_eq_ite (ha : a < Q) (hb : b < Q) : modadd a b = if a + b < Q then a + b else a + b - Q := by
  split
  · exact modred_of_lt ‹_›
  · exact modred_of_le_of_lt (by omega) (by omega)

theorem biasedDiff_self (a : Nat) : biasedDiff a a = Q := Nat.add_sub_cancel_left a Q

theorem modsub_self (a : Nat) : modsub a a = 0 := by rw [modsub, biasedDiff_self]; rfl

theorem modsub_eq_ite (ha : a < Q) (hb : b < Q) : modsub a b = if b ≤ a then a - b else a + Q - b := by
  split
  · rw [modsub, biasedDiff, modred_of_le_of_lt (by omega) (by omega)]
    omega
  · rw [modsub, biasedDiff, modred_of_lt (by omega)]

theorem modsub_zero (ha : a < Q) : modsub a 0 = a := (modsub_eq_ite ha (by decide)).trans (if_pos a.zero_le)

/-- In `Z_Q`, `b - a = -(a - b)`. -/
theorem modsub_swap (ha : a < Q) (hb : b < Q) : modsub b a = modred (Q - modsub a b) := by
  have hle : modsub a b ≤ Q := (modred_lt _).le
  rw [modsub, modred_eq_modred_iff, natCast_biasedDiff ha.le, Nat.cast_sub hle, natCast_modsub hb.le, ZMod.natCast_self,
    zero_sub, neg_sub]

theorem modmul_comm (a b : Nat) : modmul a b = modmul b a := by rw [modmul, modmul, Nat.mul_comm]

theorem modmul_zero (a : Nat) : modmul a 0 = 0 := rfl

theorem modmul_one (a : Nat) : modmul a 1 = modred a := by rw [modmul, Nat.mul_one]

/-- The multiplier may be fed `a` or `a - Q`: they are one class (R98(f), R153). -/
theorem modmul_sub_Q (h : Q ≤ a) (b : Nat) : modmul a b = modmul (a - Q) b := by
  rw [modmul, modmul, modred_eq_modred_iff, Nat.cast_mul, Nat.cast_mul, Nat.cast_sub h, ZMod.natCast_self, sub_zero]

/-! ### The Barrett circuit (40_modular_arithmetic.md section 4) -/

/-- The quotient `t` is the true one or one less: the remainder before correction is at most 13657. -/
theorem barrett_quotient_bounds (hx : x < 2 ^ WACC) :
    (x * 43687) >>> 29 * Q ≤ x ∧ x ≤ (x * 43687) >>> 29 * Q + 13657 := by
  rw [Nat.shiftRight_eq_div_pow, Q_eq]
  have hx : x < 2 ^ 29 := hx
  omega

/-! ### The obligations -/

/-- Settles O19: each primitive is `MODRED` of what `Z_Q` computes. -/
theorem primitivesAreRingOperations : Obligations.PrimitivesAreRingOperations :=
  ⟨fun a b _ hb => ⟨natCast_modadd a b, natCast_modsub hb.le, natCast_modmul a b, modred_lt _, modred_lt _, modred_lt _⟩,
    fun _ _ => eq_of_natCast_eq⟩

/-- Settles O20: each width follows from the maximum in front of it. -/
theorem intermediatesFitTheDatapath : Obligations.IntermediatesFitTheDatapath := by
  intro u v s hu hv hs
  have hsum : u + v ≤ 24576 := add_le_of_residues hu hv
  have hdiff : biasedDiff u v ≤ 24577 := biasedDiff_le hu
  have hprod : v * s ≤ 150994944 := mul_le_of_residue (Nat.le_of_lt_succ hv) hs
  have hscale : u * NINV ≤ 150417408 := Nat.mul_le_mul_right NINV (Nat.le_of_lt_succ hu)
  have hdiffProd : biasedDiff u v * s ≤ 302002176 := mul_le_of_residue hdiff hs
  exact ⟨hsum, hsum.trans_lt (by decide), hdiff, hdiff.trans_lt (by decide), hprod, hprod.trans_lt (by decide),
    hscale, hscale.trans_lt (by decide), hdiffProd, hdiffProd.trans_lt (by decide)⟩

/-- Settles O15: division with remainder, and its uniqueness. -/
theorem modRedIsUniqueRemainder : Obligations.ModRedIsUniqueRemainder :=
  ⟨fun x => ⟨modred_lt x, exists_eq_mul_Q_add_modred x, fun _ _ => eq_modred_of_eq_mul_Q_add⟩, by decide⟩

/-- Settles O16: the sum of two residues is below `2 * Q`. -/
theorem modAddIsConditionalSubtraction : Obligations.ModAddIsConditionalSubtraction :=
  ⟨fun a b ha hb => ⟨rfl, add_le_of_residues ha hb, modadd_eq_ite ha hb, modadd_comm a b, modadd_zero ha⟩, by decide⟩

/-- Settles O17: the bias keeps the difference from going negative and leaves its class alone. -/
theorem modSubIsBiasedDifference : Obligations.ModSubIsBiasedDifference := by
  refine ⟨fun a b ha hb => ⟨?_, one_le_biasedDiff hb, biasedDiff_le ha, rfl, modsub_eq_ite ha hb, modsub_swap ha hb,
    modsub_self a, biasedDiff_self a, modsub_zero ha⟩, by decide⟩
  have := Q_eq
  rw [biasedDiff]
  omega

/-- Settles O18: the product of the widest operands, and the class of the first operand reduced or not. -/
theorem modMulReducesOnce : Obligations.ModMulReducesOnce :=
  ⟨fun a b ha hb => ⟨rfl, mul_le_of_residue ha hb, fun h => modmul_sub_Q h b,
      (modmul_comm 0 b).trans (modmul_zero b), modmul_zero a, modmul_one a, Nat.mul_mod_right Q b⟩,
    fun a b _ _ => modmul_comm a b, by decide⟩

/-- Settles O21: the word before correction has the class of `x` and is below `2 * Q`. -/
theorem barrettCircuitEqualsModRed : Obligations.BarrettCircuitEqualsModRed := by
  intro x hx
  have := Q_eq
  obtain ⟨hle, hlt⟩ := barrett_quotient_bounds hx
  have hclass : modred x = modred (x - (x * 43687) >>> 29 * Q) := by
    rw [← modred_mul_Q_add ((x * 43687) >>> 29) (x - _), Nat.add_sub_cancel' hle]
  rw [hclass, barrett]
  split
  · exact (modred_of_le_of_lt ‹_› (by omega)).symm
  · exact (modred_of_lt (by omega)).symm

end Sys2Proof.Machine

/-! ## The ROM image and its table rule (41_twiddle_rom.md R110 to R116) -/

namespace Sys2Proof.Machine

open Sys2Proof.Config

variable {w x y k : Nat}

/-! ### The bit reversal `brv` -/

@[simp] theorem brv_zero (w : Nat) : brv w 0 = 0 := by
  induction w with
  | zero => rfl
  | succ w ih => simp [brv, ih]

theorem brv_lt (w x : Nat) : brv w x < 2 ^ w := by
  induction w generalizing x with
  | zero => exact Nat.one_pos
  | succ w ih =>
    have hbit : x % 2 * 2 ^ w ≤ 1 * 2 ^ w := Nat.mul_le_mul_right _ (by omega)
    have hrest := ih (x / 2)
    rw [brv, pow_succ]
    omega

/-- The low `m` bits go to the top, reversed; the other `n` bits to the bottom, reversed. -/
theorem brv_add (m n x : Nat) : brv (m + n) x = brv m (x % 2 ^ m) * 2 ^ n + brv n (x / 2 ^ m) := by
  induction m generalizing x with
  | zero => simp [brv]
  | succ m ih =>
    have hlow : x % 2 ^ (m + 1) % 2 = x % 2 := Nat.mod_mod_of_dvd x (dvd_pow_self 2 m.succ_ne_zero)
    have hmid : x % 2 ^ (m + 1) / 2 = x / 2 % 2 ^ m := by rw [pow_succ', Nat.mod_mul_right_div_self]
    have hhigh : x / 2 / 2 ^ m = x / 2 ^ (m + 1) := by rw [pow_succ', Nat.div_div_eq_div_mul]
    rw [Nat.succ_add_eq_add_succ, Nat.add_succ, brv, ih, brv, hlow, hmid, hhigh, pow_add]
    ring

/-- One more bit of width, which is 0, doubles the reversal. -/
theorem brv_succ_of_lt (h : x < 2 ^ w) : brv (w + 1) x = 2 * brv w x := by
  rw [brv_add, Nat.mod_eq_of_lt h, Nat.div_eq_of_lt h, brv_zero, pow_one, Nat.add_zero, Nat.mul_comm]

theorem brv_succ_two_mul (w x : Nat) : brv (w + 1) (2 * x) = brv w x := by
  rw [brv, Nat.mul_mod_right, Nat.mul_div_cancel_left _ Nat.two_pos, Nat.zero_mul, Nat.zero_add]

theorem brv_succ_two_mul_add_one (w x : Nat) : brv (w + 1) (2 * x + 1) = 2 ^ w + brv w x := by
  rw [brv, show (2 * x + 1) % 2 = 1 by omega, show (2 * x + 1) / 2 = x by omega, Nat.one_mul]

/-- Bit 0 goes to the top. -/
theorem brv_succ_div (w x : Nat) : brv (w + 1) x / 2 ^ w = x % 2 := by
  rw [brv, Nat.mul_comm, Nat.mul_add_div (by positivity), Nat.div_eq_of_lt (brv_lt w _), Nat.add_zero]

theorem brv_injOn (hx : x < 2 ^ w) (hy : y < 2 ^ w) (h : brv w x = brv w y) : x = y := by
  induction w generalizing x y with
  | zero => omega
  | succ w ih =>
    have hbit : x % 2 = y % 2 := by rw [← brv_succ_div w x, h, brv_succ_div]
    have hrest : brv w (x / 2) = brv w (y / 2) := by
      rw [brv, brv, hbit] at h
      exact Nat.add_left_cancel h
    have hhalf : x / 2 = y / 2 := ih (by omega) (by omega) hrest
    omega

/-- Address `2^l + i` reverses to a leading 1 below the reversed `i` (R110). -/
theorem brv_stage {l i n : Nat} (hi : i < 2 ^ l) : brv (l + (n + 1)) (2 ^ l + i) = 2 ^ n * (2 * brv l i + 1) := by
  have hpos : 0 < 2 ^ l := by positivity
  have hone : brv (n + 1) 1 = 2 ^ n := by simpa using brv_succ_two_mul_add_one n 0
  rw [brv_add, Nat.add_mod_left, Nat.mod_eq_of_lt hi, Nat.add_div_left _ hpos, Nat.div_eq_of_lt hi, hone, pow_succ]
  ring

/-- Settles O25: the reversal of `2^l + i` in `l + (8 - l)` bits. -/
theorem romExponentPerStage : Obligations.RomExponentPerStage := by
  intro l i hl hi
  have hexp : romExponent (2 ^ l + i) = 2 ^ (7 - l) * (2 * brv l i + 1) := by
    rw [romExponent, ← brv_stage hi, show l + (7 - l + 1) = LOGN by unfold LOGN; omega]
  have hpow : 2 ^ (8 - l) = 2 * 2 ^ (7 - l) := by rw [← pow_succ', show 7 - l + 1 = 8 - l by omega]
  have hdiv : N / (2 * 2 ^ l) = 2 ^ (7 - l) := by
    rw [← pow_succ', show N = 2 ^ 8 from rfl, Nat.pow_div (by omega) Nat.two_pos, Nat.add_comm, ← Nat.sub_sub]
  rw [hdiv, hexp, hpow]
  exact ⟨by ring, rfl⟩

/-! ### The literal tables are the rule's

The literals are data, so they are compared with the rule word by word, here and nowhere else. -/

theorem twfTable_eq_map : twfTable = (List.range' 1 ROMDEPTH).map twgenFwd := by decide +kernel

theorem twiTable_eq_map : twiTable = (List.range' 1 ROMDEPTH).map twgenInv := by decide +kernel

theorem romWord?_of_romTable {sp : Space} {f : Nat → Nat} (h : romTable sp = (List.range' 1 ROMDEPTH).map f)
    (h1 : 1 ≤ k) (h2 : k ≤ ROMDEPTH) : romWord? sp k = some (f k) := by
  obtain ⟨n, rfl⟩ := Nat.exists_eq_add_of_le' h1
  rw [romWord?, h, List.getElem?_map, List.getElem?_range' (by omega)]
  simp [Nat.add_comm]

theorem romWord?_twf (h1 : 1 ≤ k) (h2 : k ≤ ROMDEPTH) : romWord? .twf k = some (twgenFwd k) :=
  romWord?_of_romTable twfTable_eq_map h1 h2

theorem romWord?_twi (h1 : 1 ≤ k) (h2 : k ≤ ROMDEPTH) : romWord? .twi k = some (twgenInv k) :=
  romWord?_of_romTable twiTable_eq_map h1 h2

theorem romTable_length_le (sp : Space) : (romTable sp).length ≤ ROMDEPTH := by
  cases sp with
  | buf => exact Nat.zero_le _
  | twf => exact twfTable_length.le
  | twi => exact twiTable_length.le

theorem romWord?_eq_none (sp : Space) (h : ROMDEPTH < k) : romWord? sp k = none := by
  obtain ⟨n, rfl⟩ := Nat.exists_eq_add_of_lt h
  exact List.getElem?_eq_none ((romTable_length_le sp).trans (Nat.le_add_right _ _))

/-- Settles O22: the tables are the rule's lists, and a list of 255 words has no other. -/
theorem romImageFollowsTableRule : Obligations.RomImageFollowsTableRule :=
  ⟨fun _ h1 h2 => ⟨romWord?_twf h1 h2, romWord?_twi h1 h2⟩, fun _ => rfl, fun sp _ h => romWord?_eq_none sp h⟩

/-! ### Images built by a table rule -/

section TableRule

variable {root rootInv width offset : Nat} {tw : Twiddles}

theorem natCast_twgenWith (root width offset k : Nat) :
    (twgenWith root width offset k : ZMod Q) = (root : ZMod Q) ^ brv width (k + offset) := by
  rw [← Nat.cast_pow]
  exact natCast_modred _

theorem residueWords_twgenWith : residueWords (twgenWith root width offset) := fun _ _ _ => modred_lt _

theorem natCast_mul_eq_one {s s' : Nat} (h : modmul s s' = 1) : (s : ZMod Q) * s' = 1 := by
  rw [← natCast_modmul, h, Nat.cast_one]

/-- Inverse roots give inverse words, whatever the width and the offset (R115). -/
theorem modmul_twgenWith (h : modmul root rootInv = 1) (k : Nat) :
    modmul (twgenWith root width offset k) (twgenWith rootInv width offset k) = 1 := by
  refine eq_of_natCast_eq (modred_lt _) (by decide) ?_
  rw [natCast_modmul, natCast_twgenWith, natCast_twgenWith, ← mul_pow, natCast_mul_eq_one h, one_pow, Nat.cast_one]

/-- The words `tw` are those of the rule of R111 with a 512th root of unity. -/
structure FollowsRule (root : Nat) (tw : Twiddles) : Prop where
  root_pow : (root : ZMod Q) ^ 256 = -1
  word_eq : ∀ k, 1 ≤ k → k ≤ ROMDEPTH → tw k = twgenWith root LOGN 0 k

theorem FollowsRule.natCast_word (h : FollowsRule root tw) (h1 : 1 ≤ k) (h2 : k ≤ ROMDEPTH) :
    (tw k : ZMod Q) = (root : ZMod Q) ^ brv LOGN k := by rw [h.word_eq k h1 h2, natCast_twgenWith, Nat.add_zero]

theorem neg_one_ne_one : (-1 : ZMod Q) ≠ 1 := by decide

theorem FollowsRule.nonzeroWords (h : FollowsRule root tw) : nonzeroWords tw := by
  intro k h1 h2
  have hlt : tw k < Q := h.word_eq k h1 h2 ▸ modred_lt _
  refine ⟨Nat.pos_of_ne_zero fun h0 => ?_, Nat.le_of_lt_succ hlt⟩
  have hpow : (root : ZMod Q) ^ 256 = 0 :=
    pow_eq_zero_of_le (brv_lt LOGN k).le (by rw [← h.natCast_word h1 h2, h0, Nat.cast_zero])
  exact absurd (h.root_pow.symm.trans hpow) (by decide)

theorem modmul_self_eq_of_natCast {a b : Nat} (hb : b < Q) (h : (a : ZMod Q) * a = b) : modmul a a = b :=
  eq_of_natCast_eq (modred_lt _) hb (by rw [natCast_modmul, h])

/-- Addresses `k`, `2k` and `2k + 1` have the exponents `2e`, `e` and `128 + e` (R116(g)). -/
theorem FollowsRule.splits (h : FollowsRule root tw) : splits tw := by
  refine ⟨modmul_self_eq_of_natCast (by decide) ?_, fun k h1 h2 => ?_⟩
  · rw [h.natCast_word le_rfl (by decide), ← pow_add]
    exact h.root_pow
  have hle : k ≤ ROMDEPTH := h2.trans (by decide)
  have hlt : tw k < Q := h.word_eq k h1 hle ▸ modred_lt _
  have hword : (tw k : ZMod Q) = (root : ZMod Q) ^ brv 7 k * (root : ZMod Q) ^ brv 7 k := by
    rw [h.natCast_word h1 hle, ← pow_add, ← Nat.two_mul, ← brv_succ_of_lt (Nat.lt_succ_of_le h2)]
  have hpos : 0 < tw k := (h.nonzeroWords k h1 hle).1
  constructor
  · refine modmul_self_eq_of_natCast hlt ?_
    rw [h.natCast_word (by omega) (by unfold ROMDEPTH; omega), hword]
    exact congrArg (fun e => (root : ZMod Q) ^ e * (root : ZMod Q) ^ e) (brv_succ_two_mul 7 k)
  · refine modmul_self_eq_of_natCast (Nat.sub_lt (by decide) hpos) ?_
    have hneg : ((12289 - tw k : Nat) : ZMod Q) = -(tw k : ZMod Q) := by
      rw [Nat.cast_sub hlt.le, show ((12289 : Nat) : ZMod Q) = 0 from ZMod.natCast_self Q, zero_sub]
    have hexp : brv LOGN (2 * k + 1) = 128 + brv 7 k := brv_succ_two_mul_add_one 7 k
    rw [h.natCast_word (by omega) (by unfold ROMDEPTH; omega), hneg, hword, hexp, ← neg_one_mul, ← h.root_pow]
    ring

theorem FollowsRule.orderOf_root (h : FollowsRule root tw) : orderOf (root : ZMod Q) = 512 := by
  refine orderOf_eq_prime_pow (p := 2) (n := 8) ?_ ?_
  · exact fun h1 => neg_one_ne_one (h.root_pow.symm.trans h1)
  · rw [pow_succ, pow_mul]
    exact (congrArg (· ^ 2) h.root_pow).trans (neg_one_sq)

/-- The exponents are different and below the order of the root (R116(h)). -/
theorem FollowsRule.distinctWords (h : FollowsRule root tw) : distinctWords tw := by
  intro j k hj1 hj2 hk1 hk2 heq
  have hlt (a : Nat) : brv LOGN a < orderOf (root : ZMod Q) := by
    rw [h.orderOf_root]
    exact (brv_lt LOGN a).trans (by decide)
  have hexp : brv LOGN j = brv LOGN k := pow_injOn_Iio_orderOf (hlt j) (hlt k)
    (by simp only [← h.natCast_word hj1 hj2, ← h.natCast_word hk1 hk2, heq])
  exact brv_injOn (w := LOGN) (Nat.lt_succ_of_le hj2) (Nat.lt_succ_of_le hk2) hexp

theorem natCast_pow_eq_neg_one {n : Nat} (h : root ^ n % Q = Q - 1) : (root : ZMod Q) ^ n = -1 := by
  rw [← Nat.cast_pow, ← natCast_modred, modred, h]
  rfl

end TableRule

/-! ### The block's images -/

theorem twgenFwd_eq_twgenWith (k : Nat) : twgenFwd k = twgenWith PSI LOGN 0 k := rfl

theorem twgenInv_eq_twgenWith (k : Nat) : twgenInv k = twgenWith PSIINV LOGN 0 k := rfl

/-- Settles O23: both words are powers of inverse roots with the same exponent. -/
theorem romWordsAreMutuallyInverse : Obligations.RomWordsAreMutuallyInverse := by
  intro k h1 h2
  refine ⟨_, _, romWord?_twf h1 h2, romWord?_twi h1 h2, ?_⟩
  rw [twgenFwd_eq_twgenWith, twgenInv_eq_twgenWith]
  exact modmul_twgenWith (by decide) k

theorem followsRule_romWord_twf : FollowsRule PSI (romWord .twf) where
  root_pow := natCast_pow_eq_neg_one (by decide)
  word_eq k h1 h2 := by rw [romWord, romWord?_twf h1 h2, Option.getD_some, twgenFwd_eq_twgenWith]

theorem followsRule_romWord_twi : FollowsRule PSIINV (romWord .twi) where
  root_pow := natCast_pow_eq_neg_one (by decide)
  word_eq k h1 h2 := by rw [romWord, romWord?_twi h1 h2, Option.getD_some, twgenInv_eq_twgenWith]

theorem exists_followsRule {sp : Space} (hsp : sp ≠ .buf) : ∃ root, FollowsRule root (romWord sp) := by
  cases sp with
  | buf => exact absurd rfl hsp
  | twf => exact ⟨_, followsRule_romWord_twf⟩
  | twi => exact ⟨_, followsRule_romWord_twi⟩

/-- Settles O24: both images follow the rule with a 512th root of unity. -/
theorem romImageIsValid : Obligations.RomImageIsValid := by
  refine ⟨by decide, by decide, by decide, by decide, by decide +kernel, by decide, by decide, fun sp hsp => ?_⟩
  obtain ⟨root, h⟩ := exists_followsRule hsp
  exact ⟨h.nonzeroWords, h.splits, h.distinctWords⟩

end Sys2Proof.Machine

/-! ## The transforms as linear maps over `Z_Q`

A buffer has a class in `Z_Q` at each position. Every butterfly, stage and transform acts on these classes as a linear
map, over any twiddle words; with inverse words a stage of one transform undoes that of the other up to a factor 2. -/

namespace Sys2Proof.Machine

open Sys2Proof.Config

variable {p q : Coeffs}

/-- A class at each position. -/
abbrev ClassVec := Fin N → ZMod Q

/-- The classes of the 256 numbers. -/
def classes (p : Coeffs) : ClassVec := fun a => p a

theorem eqOn_of_classes_eq (hp : validCoeffs p) (hq : validCoeffs q) (h : classes p = classes q) :
    ∀ a < N, p a = q a :=
  fun a ha => eq_of_natCast_eq (hp a ha) (hq a ha) (congrFun h ⟨a, ha⟩)

theorem validCoeffs_setAt (hp : validCoeffs p) (a : Nat) {v : Nat} (hv : v < Q) : validCoeffs (setAt p a v) := by
  intro x hx
  unfold setAt
  split
  · exact hv
  · exact hp x hx

theorem classes_setAt (p : Coeffs) (a : Fin N) (v : Nat) :
    classes (setAt p a v) = Function.update (classes p) a (v : ZMod Q) := by
  funext x
  by_cases hx : x = a
  · subst hx; simp [classes, setAt]
  · simp [classes, setAt, hx, Fin.val_inj]

/-! ### Linear operations -/

/-- `f` keeps valid buffers, and on their classes it is a linear map. -/
structure LinearOnClasses (f : Coeffs → Coeffs) : Prop where
  valid : ∀ p, validCoeffs p → validCoeffs (f p)
  exists_linear : ∃ F : ClassVec →ₗ[ZMod Q] ClassVec, ∀ p, validCoeffs p → classes (f p) = F (classes p)

namespace LinearOnClasses

variable {f g : Coeffs → Coeffs}

theorem id : LinearOnClasses fun p => p := ⟨fun _ hp => hp, LinearMap.id, fun _ _ => rfl⟩

theorem comp (hg : LinearOnClasses g) (hf : LinearOnClasses f) : LinearOnClasses fun p => g (f p) := by
  obtain ⟨G, hG⟩ := hg.exists_linear
  obtain ⟨F, hF⟩ := hf.exists_linear
  refine ⟨fun p hp => hg.valid _ (hf.valid p hp), G ∘ₗ F, fun p hp => ?_⟩
  rw [hG _ (hf.valid p hp), hF p hp, LinearMap.comp_apply]

theorem foldl {op : Coeffs → Nat → Coeffs} {l : List Nat} (h : ∀ x ∈ l, LinearOnClasses fun p => op p x) :
    LinearOnClasses fun p => l.foldl op p := by
  induction l with
  | nil => exact id
  | cons x l ih =>
    exact (ih fun y hy => h y (List.mem_cons_of_mem x hy)).comp (h x List.mem_cons_self)

theorem foldr {op : Nat → Coeffs → Coeffs} {l : List Nat} (h : ∀ x ∈ l, LinearOnClasses (op x)) :
    LinearOnClasses fun p => l.foldr op p := by
  induction l with
  | nil => exact id
  | cons x l ih =>
    exact (h x List.mem_cons_self).comp (ih fun y hy => h y (List.mem_cons_of_mem x hy))

/-- What is scaled before is scaled after; with `c = 1`, only the classes count. -/
theorem classes_eq_smul (hf : LinearOnClasses f) (hp : validCoeffs p) (hq : validCoeffs q) {c : ZMod Q}
    (h : classes q = c • classes p) : classes (f q) = c • classes (f p) := by
  obtain ⟨F, hF⟩ := hf.exists_linear
  rw [hF q hq, h, map_smul, hF p hp]

theorem classes_congr (hf : LinearOnClasses f) (hp : validCoeffs p) (hq : validCoeffs q) (h : classes q = classes p) :
    classes (f q) = classes (f p) := by
  obtain ⟨F, hF⟩ := hf.exists_linear
  rw [hF q hq, h, hF p hp]

end LinearOnClasses

/-! ### Butterflies -/

/-- A combination whose outputs are, for each twiddle, linear in residue operands. -/
def LinearComb (comb : Nat → Nat → Nat → Nat × Nat) : Prop :=
  ∀ s, ∃ c₁ c₂ d₁ d₂ : ZMod Q, ∀ u w, u < Q → w < Q →
    ((comb u w s).1 : ZMod Q) = c₁ * u + c₂ * w ∧ ((comb u w s).2 : ZMod Q) = d₁ * u + d₂ * w

theorem natCast_ctOut (u w s : Nat) :
    ((ctOut u w s).1 : ZMod Q) = u + w * s ∧ ((ctOut u w s).2 : ZMod Q) = u - w * s :=
  ⟨by rw [ctOut, natCast_modadd, natCast_modmul],
    (natCast_modsub (b := modmul w s) (modred_lt _).le).trans (by rw [natCast_modmul])⟩

theorem natCast_gsOut (u : Nat) {v : Nat} (hv : v < Q) (s : Nat) :
    ((gsOut u v s).1 : ZMod Q) = u + v ∧ ((gsOut u v s).2 : ZMod Q) = (u - v) * s :=
  ⟨natCast_modadd u v, by rw [gsOut, natCast_modmul, natCast_biasedDiff hv.le]⟩

theorem linearComb_ctOut : LinearComb ctOut := by
  refine fun s => ⟨1, s, 1, -s, fun u w _ _ => ?_⟩
  rw [(natCast_ctOut u w s).1, (natCast_ctOut u w s).2]
  constructor <;> ring

theorem linearComb_gsOut : LinearComb gsOut := by
  refine fun s => ⟨1, 1, s, -s, fun u v _ hv => ?_⟩
  rw [(natCast_gsOut u hv s).1, (natCast_gsOut u hv s).2]
  constructor <;> ring

/-- Writing two linear combinations of two entries to the same two entries. -/
def updatePair (lo hi : Fin N) (c₁ c₂ d₁ d₂ : ZMod Q) : ClassVec →ₗ[ZMod Q] ClassVec where
  toFun v := Function.update (Function.update v lo (c₁ * v lo + c₂ * v hi)) hi (d₁ * v lo + d₂ * v hi)
  map_add' v v' := by
    funext x
    simp only [Function.update_apply, Pi.add_apply]
    split_ifs <;> ring
  map_smul' c v := by
    funext x
    simp only [Function.update_apply, Pi.smul_apply, smul_eq_mul, RingHom.id_apply]
    split_ifs <;> ring

theorem linearOnClasses_combineAt {comb : Nat → Nat → Nat → Nat × Nat} (hres : ResidueComb comb)
    (hlin : LinearComb comb) (tw : Twiddles) {pr : Pair} (hpr : pr.InRange) :
    LinearOnClasses fun p => combineAt comb tw p pr := by
  obtain ⟨c₁, c₂, d₁, d₂, hcomb⟩ := hlin (tw pr.rom)
  refine ⟨fun p hp => ?_, updatePair ⟨pr.lo, hpr.lo_lt⟩ ⟨pr.hi, hpr.hi_lt⟩ c₁ c₂ d₁ d₂, fun p hp => ?_⟩
  · obtain ⟨h1, h2⟩ := hres (p pr.lo) (p pr.hi) (tw pr.rom)
    exact validCoeffs_setAt (validCoeffs_setAt hp _ h1) _ h2
  · obtain ⟨h1, h2⟩ := hcomb (p pr.lo) (p pr.hi) (hp _ hpr.lo_lt) (hp _ hpr.hi_lt)
    have hlo (q : Coeffs) (v : Nat) := classes_setAt q ⟨pr.lo, hpr.lo_lt⟩ v
    have hhi (q : Coeffs) (v : Nat) := classes_setAt q ⟨pr.hi, hpr.hi_lt⟩ v
    rw [combineAt, hhi, hlo, h1, h2]
    rfl

/-! ### A stage, position by position -/

section Stage

variable (comb : Nat → Nat → Nat → Nat × Nat) (tw : Twiddles) {l b x n : Nat}

/-- The butterfly of stage `l` that touches position `x`. -/
def bflyTouching (l x : Nat) : Nat := x / (2 * 2 ^ (7 - l)) * 2 ^ (7 - l) + x % 2 ^ (7 - l)

theorem touches_iff (hl : l < 8) : x = (fwdPairAt l b).lo ∨ x = (fwdPairAt l b).hi ↔ bflyTouching l x = b := by
  interval_cases l <;> simp only [fwdPairAt, bflyTouching, Nat.reduceShiftLeft, Nat.reduceShiftRight, Nat.reduceSub,
    Nat.reducePow, Nat.reduceMul] <;> omega

theorem bflyTouching_lt (hl : l < 8) (hx : x < N) : bflyTouching l x < 128 := by
  have hx : x < 256 := hx
  interval_cases l <;> simp only [bflyTouching, Nat.reduceSub, Nat.reducePow, Nat.reduceMul] <;> omega

theorem combineAt_of_not_touched {pr : Pair} (p : Coeffs) (h : ¬ (x = pr.lo ∨ x = pr.hi)) :
    combineAt comb tw p pr x = p x := by
  obtain ⟨hlo, hhi⟩ := not_or.1 h
  rw [combineAt, setAt, if_neg hhi, setAt, if_neg hlo]

/-- What a butterfly writes depends on its two operands alone. -/
theorem combineAt_congr {pr : Pair} (hlo : p pr.lo = q pr.lo) (hhi : p pr.hi = q pr.hi) (hx : p x = q x) :
    combineAt comb tw p pr x = combineAt comb tw q pr x := by
  simp only [combineAt, setAt, hlo, hhi, hx]

/-- After `n` butterflies of a stage: the positions they touch hold what each alone writes, the others are as before. -/
theorem foldl_bfly_apply (hl : l < 8) (n x : Nat) (p : Coeffs) :
    (List.range n).foldl (fun p b => combineAt comb tw p (fwdPairAt l b)) p x =
      if bflyTouching l x < n then combineAt comb tw p (fwdPairAt l (bflyTouching l x)) x else p x := by
  induction n generalizing x with
  | zero => rfl
  | succ n ih =>
    have hfresh {y : Nat} (hy : bflyTouching l y = n) :
        (List.range n).foldl (fun p b => combineAt comb tw p (fwdPairAt l b)) p y = p y := by
      rw [ih, if_neg (by omega)]
    rw [List.range_succ, List.foldl_append, List.foldl_cons, List.foldl_nil]
    by_cases hx : bflyTouching l x = n
    · rw [if_pos (by omega), hx]
      exact combineAt_congr comb tw (hfresh ((touches_iff hl).1 (.inl rfl))) (hfresh ((touches_iff hl).1 (.inr rfl)))
        (hfresh hx)
    · rw [combineAt_of_not_touched comb tw _ fun h => hx ((touches_iff hl).1 h), ih]
      exact if_congr (by omega) rfl rfl

/-- After a stage every position holds what the one butterfly that touches it writes. -/
theorem stageInSequence_apply (hl : l < 8) (hb : b < 128) (hx : x = (fwdPairAt l b).lo ∨ x = (fwdPairAt l b).hi)
    (p : Coeffs) : stageInSequence comb tw l p x = combineAt comb tw p (fwdPairAt l b) x := by
  have hxb := (touches_iff hl).1 hx
  rw [stageInSequence, foldl_bfly_apply comb tw hl, if_pos (hxb ▸ hb), hxb]

theorem fwdPairAt_lo_ne_hi (hl : l < 8) (b : Nat) : (fwdPairAt l b).lo ≠ (fwdPairAt l b).hi := by
  interval_cases l <;> simp only [fwdPairAt, Nat.reduceShiftRight] <;> omega

theorem stageInSequence_lo (hl : l < 8) (hb : b < 128) (p : Coeffs) :
    stageInSequence comb tw l p (fwdPairAt l b).lo =
      (comb (p (fwdPairAt l b).lo) (p (fwdPairAt l b).hi) (tw (fwdPairAt l b).rom)).1 := by
  rw [stageInSequence_apply comb tw hl hb (.inl rfl), combineAt, setAt, if_neg (fwdPairAt_lo_ne_hi hl b), setAt,
    if_pos rfl]

theorem stageInSequence_hi (hl : l < 8) (hb : b < 128) (p : Coeffs) :
    stageInSequence comb tw l p (fwdPairAt l b).hi =
      (comb (p (fwdPairAt l b).lo) (p (fwdPairAt l b).hi) (tw (fwdPairAt l b).rom)).2 := by
  rw [stageInSequence_apply comb tw hl hb (.inr rfl), combineAt, setAt, if_pos rfl]

end Stage

theorem linearOnClasses_stage {comb : Nat → Nat → Nat → Nat × Nat} (hres : ResidueComb comb) (hlin : LinearComb comb)
    (tw : Twiddles) {l : Nat} (hl : l < 8) : LinearOnClasses (stageInSequence comb tw l) :=
  .foldl fun _ hb => linearOnClasses_combineAt hres hlin tw (fwdPairAt_inRange hl (List.mem_range.1 hb))

/-! ### A stage undone -/

/-- After `comb` with twiddle `s`, `comb'` with twiddle `s'` gives twice the operands (R179). -/
def UndoneUpToTwo (comb comb' : Nat → Nat → Nat → Nat × Nat) (s s' : Nat) : Prop :=
  ∀ u w, u < Q → w < Q →
    ((comb' (comb u w s).1 (comb u w s).2 s').1 : ZMod Q) = 2 * u ∧
    ((comb' (comb u w s).1 (comb u w s).2 s').2 : ZMod Q) = 2 * w

section Undo

variable {s s' : Nat}

theorem undoneUpToTwo_ct_gs (h : modmul s s' = 1) : UndoneUpToTwo ctOut gsOut s s' := by
  intro u w _ _
  obtain ⟨h1, h2⟩ := natCast_ctOut u w s
  rw [(natCast_gsOut _ (residueComb_ctOut u w s).2 s').1, (natCast_gsOut _ (residueComb_ctOut u w s).2 s').2, h1, h2]
  exact ⟨by ring, by linear_combination 2 * (w : ZMod Q) * natCast_mul_eq_one h⟩

theorem undoneUpToTwo_gs_ct (h : modmul s s' = 1) : UndoneUpToTwo gsOut ctOut s' s := by
  intro u v _ hv
  obtain ⟨h1, h2⟩ := natCast_gsOut u hv s'
  rw [(natCast_ctOut _ _ s).1, (natCast_ctOut _ _ s).2, h1, h2]
  exact ⟨by linear_combination ((u : ZMod Q) - v) * natCast_mul_eq_one h,
    by linear_combination ((v : ZMod Q) - u) * natCast_mul_eq_one h⟩

end Undo

theorem classes_stage_stage {comb comb' : Nat → Nat → Nat → Nat × Nat} {tw tw' : Twiddles}
    (h : ∀ k, 1 ≤ k → k ≤ ROMDEPTH → UndoneUpToTwo comb comb' (tw k) (tw' k)) {l : Nat} (hl : l < 8)
    (hp : validCoeffs p) :
    classes (stageInSequence comb' tw' l (stageInSequence comb tw l p)) = (2 : ZMod Q) • classes p := by
  funext x
  have hb : bflyTouching l x < 128 := bflyTouching_lt hl x.isLt
  obtain ⟨hlo, hhi, hrom1, hrom2⟩ := fwdPairAt_inRange hl hb
  obtain ⟨h1, h2⟩ := h _ hrom1 hrom2 _ _ (hp _ hlo) (hp _ hhi)
  rw [classes, Pi.smul_apply, smul_eq_mul, classes]
  rcases (touches_iff hl).2 (rfl : bflyTouching l x = _) with hx | hx
  · rw [hx, ← h1, stageInSequence_lo _ _ hl hb, stageInSequence_lo _ _ hl hb, stageInSequence_hi _ _ hl hb]
  · rw [hx, ← h2, stageInSequence_hi _ _ hl hb, stageInSequence_lo _ _ hl hb, stageInSequence_hi _ _ hl hb]

end Sys2Proof.Machine

/-! ## Both round trips, for inverse words (R170, R177) -/

namespace Sys2Proof.Machine

open Sys2Proof.Config

variable {p q : Coeffs} {twf twi : Twiddles}

/-! ### The stages of a transform undone, one after the other -/

/-- Two linear operations of which the second undoes the first up to a factor 2. -/
structure UndoneBy (f g : Coeffs → Coeffs) : Prop where
  first : LinearOnClasses f
  second : LinearOnClasses g
  twice : ∀ p, validCoeffs p → classes (g (f p)) = (2 : ZMod Q) • classes p

section Stages

variable {op op' : Nat → Coeffs → Coeffs} {ls : List Nat}

/-- All operations of a list, then those that undo them, the last one first. -/
theorem classes_foldr_foldl (h : ∀ l ∈ ls, UndoneBy (op l) (op' l)) (hp : validCoeffs p) :
    classes (ls.foldr op' (ls.foldl (fun p l => op l p) p)) = (2 ^ ls.length : ZMod Q) • classes p := by
  induction ls generalizing p with
  | nil => simp
  | cons x ls ih =>
    obtain ⟨hx, hls⟩ := List.forall_mem_cons.1 h
    have hrest : LinearOnClasses fun p => ls.foldr op' (ls.foldl (fun p l => op l p) p) :=
      .comp (.foldr fun l hl => (hls l hl).second) (.foldl fun l hl => (hls l hl).first)
    have hfirst := hx.first.valid p hp
    rw [List.foldl_cons, List.foldr_cons, hx.second.classes_eq_smul hfirst (hrest.valid _ hfirst) (ih hls hfirst),
      hx.twice p hp, smul_smul, List.length_cons, pow_succ]

/-- All operations of a list, the last one first, then those that undo them. -/
theorem classes_foldl_foldr (h : ∀ l ∈ ls, UndoneBy (op' l) (op l)) (hp : validCoeffs p) :
    classes (ls.foldl (fun p l => op l p) (ls.foldr op' p)) = (2 ^ ls.length : ZMod Q) • classes p := by
  induction ls with
  | nil => simp
  | cons x ls ih =>
    obtain ⟨hx, hls⟩ := List.forall_mem_cons.1 h
    have hbefore : LinearOnClasses fun p => ls.foldr op' p := .foldr fun l hl => (hls l hl).first
    have hafter : LinearOnClasses fun p => ls.foldl (fun p l => op l p) p := .foldl fun l hl => (hls l hl).second
    have hq := hbefore.valid p hp
    rw [List.foldr_cons, List.foldl_cons,
      hafter.classes_eq_smul hq (hx.second.valid _ (hx.first.valid _ hq)) (hx.twice _ hq), ih hls, smul_smul,
      List.length_cons, pow_succ']

end Stages

/-! ### The scaling pass -/

theorem foldl_scale_apply (n x : Nat) (p : Coeffs) :
    (List.range n).foldl (fun p j => setAt p j (scaleOut (p j))) p x = if x < n then scaleOut (p x) else p x := by
  induction n generalizing x with
  | zero => rfl
  | succ n ih =>
    rw [List.range_succ, List.foldl_append, List.foldl_cons, List.foldl_nil, setAt]
    by_cases hx : x = n
    · rw [if_pos hx, if_pos (by omega), ih, if_neg (lt_irrefl n), hx]
    · rw [if_neg hx, ih]
      exact if_congr (by omega) rfl rfl

theorem scaleAll_apply {a : Nat} (ha : a < N) (p : Coeffs) : scaleAll p a = scaleOut (p a) := by
  rw [scaleAll, foldl_scale_apply, if_pos ha]

theorem classes_scaleAll (p : Coeffs) : classes (scaleAll p) = (NINV : ZMod Q) • classes p := by
  funext a
  rw [classes, scaleAll_apply a.isLt, scaleOut, natCast_modmul, mul_comm]
  rfl

theorem linearOnClasses_scaleAll : LinearOnClasses scaleAll where
  valid p _ a ha := by
    rw [scaleAll_apply ha]
    exact scaleOut_lt _
  exists_linear := ⟨(NINV : ZMod Q) • LinearMap.id, fun p _ => classes_scaleAll p⟩

/-- `NINV` undoes the factors of the eight stages. -/
theorem natCast_NINV_mul : (NINV : ZMod Q) * 2 ^ 8 = 1 :=
  mod_cast natCast_mul_eq_one (s := NINV) (s' := 2 ^ 8) (by decide)

/-! ### The transforms -/

theorem foldl_eight_backwards (op : Nat → Coeffs → Coeffs) (p : Coeffs) :
    (List.range 8).foldl (fun p l => op (7 - l) p) p = (List.range 8).foldr op p := rfl

/-- The inverse transform's stages, the last one named first (R157). -/
theorem nttInvWith_eq_foldr (tw : Twiddles) (p : Coeffs) :
    nttInvWith tw p = scaleAll ((List.range 8).foldr (stageInSequence gsOut tw) p) := by
  rw [nttInvWith_eq_foldl, foldl_eight_backwards]

theorem linearOnClasses_ct (tw : Twiddles) : ∀ l < 8, LinearOnClasses (stageInSequence ctOut tw l) :=
  fun _ => linearOnClasses_stage residueComb_ctOut linearComb_ctOut tw

theorem linearOnClasses_gs (tw : Twiddles) : ∀ l < 8, LinearOnClasses (stageInSequence gsOut tw l) :=
  fun _ => linearOnClasses_stage residueComb_gsOut linearComb_gsOut tw

theorem linearOnClasses_nttFwdWith (tw : Twiddles) : LinearOnClasses (nttFwdWith tw) := by
  rw [funext (nttFwdWith_eq_foldl tw)]
  exact .foldl fun l hl => linearOnClasses_ct tw l (List.mem_range.1 hl)

theorem linearOnClasses_nttInvWith (tw : Twiddles) : LinearOnClasses (nttInvWith tw) := by
  rw [funext (nttInvWith_eq_foldr tw)]
  exact linearOnClasses_scaleAll.comp (.foldr fun l hl => linearOnClasses_gs tw l (List.mem_range.1 hl))

theorem undoneBy_ct_gs (h : inverseWords twf twi) {l : Nat} (hl : l ∈ List.range 8) :
    UndoneBy (stageInSequence ctOut twf l) (stageInSequence gsOut twi l) where
  first := linearOnClasses_ct twf l (List.mem_range.1 hl)
  second := linearOnClasses_gs twi l (List.mem_range.1 hl)
  twice _ := classes_stage_stage (fun k h1 h2 => undoneUpToTwo_ct_gs (h k h1 h2)) (List.mem_range.1 hl)

theorem undoneBy_gs_ct (h : inverseWords twf twi) {l : Nat} (hl : l ∈ List.range 8) :
    UndoneBy (stageInSequence gsOut twi l) (stageInSequence ctOut twf l) where
  first := linearOnClasses_gs twi l (List.mem_range.1 hl)
  second := linearOnClasses_ct twf l (List.mem_range.1 hl)
  twice _ := classes_stage_stage (fun k h1 h2 => undoneUpToTwo_gs_ct (h k h1 h2)) (List.mem_range.1 hl)

/-- R170, from inverse words alone. -/
theorem roundTripLaw_of_inverseWords (h : inverseWords twf twi) : roundTripLaw twf twi := by
  intro p hp
  have hvalid := (linearOnClasses_nttInvWith twi).valid _ ((linearOnClasses_nttFwdWith twf).valid p hp)
  refine eqOn_of_classes_eq hvalid hp ?_
  rw [nttInvWith_eq_foldr, nttFwdWith_eq_foldl, classes_scaleAll, classes_foldr_foldl (fun _ => undoneBy_ct_gs h) hp,
    smul_smul, List.length_range, natCast_NINV_mul, one_smul]

/-- R177, from inverse words alone. -/
theorem otherRoundTripLaw_of_inverseWords (h : inverseWords twf twi) : otherRoundTripLaw twf twi := by
  intro p hp
  have hfwd := linearOnClasses_nttFwdWith twf
  refine eqOn_of_classes_eq (hfwd.valid _ ((linearOnClasses_nttInvWith twi).valid p hp)) hp ?_
  have hstages : LinearOnClasses fun p => (List.range 8).foldr (stageInSequence gsOut twi) p :=
    .foldr fun _ hl => (undoneBy_ct_gs h hl).second
  have hs := hstages.valid p hp
  rw [nttInvWith_eq_foldr, hfwd.classes_eq_smul hs (linearOnClasses_scaleAll.valid _ hs) (classes_scaleAll _),
    nttFwdWith_eq_foldl, classes_foldl_foldr (fun _ => undoneBy_gs_ct h) hp, smul_smul, List.length_range,
    natCast_NINV_mul, one_smul]

end Sys2Proof.Machine

/-! ## The convolution law detects a wrong word at address 1 (R119)

`X^128 * X^128 = -1` modulo `X^256 + 1`. The forward transform holds the word of address 1 at position 0 for `X^128`,
and -1 for -1; so the convolution law makes that word a square root of -1. -/

namespace Sys2Proof.Machine

open Sys2Proof.Config

variable {p : Coeffs} {tw twf twi : Twiddles}

/-! ### Position 0 of the forward transform -/

/-- Of the first `t` positions only position 0 may hold something, and it holds `c`. -/
def OnlyHead (t c : Nat) (p : Coeffs) : Prop := p 0 = c ∧ ∀ a, 0 < a → a < t → p a = 0

/-- Group 0 of a forward stage. -/
theorem stage_ct_group_zero {l a : Nat} (hl : l < 8) (ha : a < 2 ^ (7 - l)) (p : Coeffs) :
    stageInSequence ctOut tw l p a = modadd (p a) (modmul (p (a + 2 ^ (7 - l))) (tw (2 ^ l))) := by
  have hb : a < 128 := ha.trans_le (Nat.pow_le_pow_right Nat.two_pos (Nat.sub_le 7 l))
  have hpair := fwdPairAt_group (i := 0) ha hl
  rw [Nat.zero_mul, Nat.zero_mul, Nat.zero_add, Nat.add_zero] at hpair
  have hlo := stageInSequence_lo ctOut tw hl hb p
  rw [hpair] at hlo
  exact hlo

theorem onlyHead_stage {l c : Nat} (hl : l < 8) (hc : c < Q) (h : OnlyHead (2 ^ (8 - l)) c p) :
    OnlyHead (2 ^ (7 - l)) c (stageInSequence ctOut tw l p) := by
  obtain ⟨h0, hrest⟩ := h
  have hpos : 0 < 2 ^ (7 - l) := by positivity
  have hpow : 2 ^ (8 - l) = 2 ^ (7 - l) + 2 ^ (7 - l) := by
    rw [← Nat.two_mul, ← pow_succ', show 7 - l + 1 = 8 - l by omega]
  have hzero {a : Nat} (ha : a < 2 ^ (7 - l)) : modmul (p (a + 2 ^ (7 - l))) (tw (2 ^ l)) = 0 := by
    rw [hrest _ (by omega) (by omega), modmul_comm, modmul_zero]
  constructor
  · rw [stage_ct_group_zero hl hpos, hzero hpos, h0, modadd_zero hc]
  · intro a h1 h2
    rw [stage_ct_group_zero hl h2, hzero h2, hrest a h1 (by omega)]
    rfl

theorem foldl_stage_zero {c : Nat} (hc : c < Q) (n l : Nat) (h : l + n = 8) (hp : OnlyHead (2 ^ n) c p) :
    (List.range' l n).foldl (fun p l => stageInSequence ctOut tw l p) p 0 = c := by
  induction n generalizing l p with
  | zero => exact hp.1
  | succ n ih =>
    have hstage := onlyHead_stage (tw := tw) (l := l) (by omega) hc (show 8 - l = n + 1 by omega ▸ hp)
    rw [List.range'_succ, List.foldl_cons]
    exact ih (l + 1) (by omega) (show 7 - l = n by omega ▸ hstage)

/-- Position 0 of the forward transform of `c + d * X^128`. -/
theorem nttFwdWith_zero (hp : ∀ a < N, a ≠ 0 → a ≠ 128 → p a = 0) :
    nttFwdWith tw p 0 = modadd (p 0) (modmul (p 128) (tw 1)) := by
  rw [nttFwdWith_eq_foldl, List.range_eq_range', List.range'_succ, List.foldl_cons]
  refine foldl_stage_zero (modred_lt _) 7 1 rfl ⟨stage_ct_group_zero (by decide) (by decide) p, fun a h1 h2 => ?_⟩
  have h2 : a < 128 := h2
  have hlo : p a = 0 := hp a (h2.trans (by decide)) (by omega) (by omega)
  have hhi : p (a + 128) = 0 := hp _ (Nat.add_lt_add_right h2 128) (by omega) (by omega)
  rw [stage_ct_group_zero (by decide) h2]
  exact (congrArg₂ (fun x y => modadd x (modmul y (tw 1))) hlo hhi).trans (by rw [modmul_comm]; rfl)

/-! ### The square of `X^128` -/

/-- `c * X^i`. -/
def monomial (c i : Nat) : Coeffs := fun a => if a = i then c else 0

theorem monomial_same (c i : Nat) : monomial c i i = c := if_pos rfl

theorem monomial_of_ne (c : Nat) {i a : Nat} (h : a ≠ i) : monomial c i a = 0 := if_neg h

theorem validCoeffs_monomial {c : Nat} (hc : c < Q) (i : Nat) : validCoeffs (monomial c i) := by
  intro a _
  unfold monomial
  split
  · exact hc
  · decide

theorem sum_monomial_mul (t : Nat) :
    (∑ a ∈ Finset.range N, ∑ b ∈ Finset.range N,
      if a + b = t then (monomial 1 128 a * monomial 1 128 b : Int) else 0) = if 256 = t then 1 else 0 := by
  have hout (a b : Nat) (h : a ≠ 128 ∨ b ≠ 128) : (monomial 1 128 a * monomial 1 128 b : Int) = 0 := by
    rcases h with h | h <;> simp [monomial_of_ne 1 h]
  rw [Finset.sum_eq_single_of_mem 128 (Finset.mem_range.2 (by decide)) fun a _ ha => Finset.sum_eq_zero fun b _ => by
      rw [hout a b (.inl ha), ite_self],
    Finset.sum_eq_single_of_mem 128 (Finset.mem_range.2 (by decide)) fun b _ hb => by rw [hout _ b (.inr hb), ite_self]]
  rfl

theorem negacyc_monomial {k : Nat} (hk : k < N) :
    negacyc (monomial 1 128) (monomial 1 128) k = monomial 12288 0 k := by
  have hk : k < 256 := hk
  rw [negacyc, sum_monomial_mul, sum_monomial_mul, if_neg (by omega), monomial]
  by_cases h0 : k = 0
  · subst h0; rfl
  · rw [if_neg h0, if_neg (by unfold N; omega)]; rfl

/-! ### Detection -/

theorem validCoeffs_mulFn (p r : Coeffs) : validCoeffs (mulFn p r) := fun _ _ => modred_lt _

/-- The convolution law, read on the transformed side. -/
theorem nttFwdWith_negacyc (hi : inverseWords twf twi) (hc : convolutionLaw twf twi) {p r s : Coeffs}
    (hp : validCoeffs p) (hr : validCoeffs r) (hs : validCoeffs s) (hneg : ∀ k < N, negacyc p r k = s k) :
    ∀ k < N, nttFwdWith twf s k = modmul (nttFwdWith twf p k) (nttFwdWith twf r k) := by
  intro k hk
  have hprod := validCoeffs_mulFn (nttFwdWith twf p) (nttFwdWith twf r)
  have hback := (linearOnClasses_nttInvWith twi).valid _ hprod
  have hfwd := linearOnClasses_nttFwdWith twf
  have hclass : classes s = classes (nttInvWith twi (mulFn (nttFwdWith twf p) (nttFwdWith twf r))) := by
    funext a
    rw [classes, classes, hc p r hp hr a a.isLt, hneg a a.isLt]
  calc nttFwdWith twf s k
      = nttFwdWith twf (nttInvWith twi (mulFn (nttFwdWith twf p) (nttFwdWith twf r))) k :=
        eqOn_of_classes_eq (hfwd.valid _ hs) (hfwd.valid _ hback) (hfwd.classes_congr hback hs hclass) k hk
    _ = modmul (nttFwdWith twf p k) (nttFwdWith twf r k) := otherRoundTripLaw_of_inverseWords hi _ hprod k hk

theorem word_one_squared_of_convolutionLaw (h1 : twf 1 < Q) (hi : inverseWords twf twi)
    (hc : convolutionLaw twf twi) : modmul (twf 1) (twf 1) = 12288 := by
  have hx := validCoeffs_monomial (c := 1) (by decide) 128
  have hword : nttFwdWith twf (monomial 1 128) 0 = twf 1 := by
    rw [nttFwdWith_zero fun a _ _ h => monomial_of_ne 1 h, monomial_of_ne 1 (by decide), monomial_same, modmul_comm,
      modmul_one, modred_of_lt h1, modadd_comm, modadd_zero h1]
  have hneg : nttFwdWith twf (monomial 12288 0) 0 = 12288 := by
    rw [nttFwdWith_zero fun a _ h _ => monomial_of_ne _ h, monomial_same, monomial_of_ne _ (by decide), modmul_comm,
      modmul_zero, modadd_zero (by decide)]
  rw [← hneg, nttFwdWith_negacyc hi hc hx hx (validCoeffs_monomial (by decide) 0) (fun _ => negacyc_monomial) 0
    (by decide), hword]

/-- R119: both round trips accept the image, the convolution law does not. -/
theorem roundTrips_and_not_convolutionLaw (hf : residueWords twf) (hi : inverseWords twf twi)
    (h1 : modmul (twf 1) (twf 1) ≠ 12288) :
    roundTripLaw twf twi ∧ otherRoundTripLaw twf twi ∧ ¬ convolutionLaw twf twi :=
  ⟨roundTripLaw_of_inverseWords hi, otherRoundTripLaw_of_inverseWords hi,
    fun hc => h1 (word_one_squared_of_convolutionLaw (hf 1 le_rfl (by decide)) hi hc)⟩

/-- Every wrong rule of the model has inverse roots, and a word at address 1 that is no square root of -1. -/
theorem wrongTableRules_roots : ∀ g ∈ wrongTableRules,
    modmul g.root g.rootInv = 1 ∧ modmul (g.twf 1) (g.twf 1) ≠ 12288 := by decide +kernel

/-- Settles O60: by the square of `X^128`, for any inverse words and so for the three wrong rules. -/
theorem convolutionDetectsWrongTables : Obligations.ConvolutionDetectsWrongTables := by
  refine ⟨fun twf twi hf _ hi h1 => roundTrips_and_not_convolutionLaw hf hi h1, fun g hg => ?_⟩
  obtain ⟨hroots, h1⟩ := wrongTableRules_roots g hg
  exact roundTrips_and_not_convolutionLaw residueWords_twgenWith (fun k _ _ => modmul_twgenWith hroots k) h1

end Sys2Proof.Machine

/-! ## The butterflies of a forward stage (42_forward_transform.md R130 to R134)

Which positions a butterfly has, that the butterflies of one stage share none, and what `BFLY_CT` makes of its pair. -/

namespace Sys2Proof.Machine

open Sys2Proof.Config

/-! ### Addresses -/

/-- A stage has `2^l` groups of `2^(7-l)` butterflies. -/
theorem two_pow_stage_mul {l : Nat} (hl : l < 8) : 2 ^ l * 2 ^ (7 - l) = 128 := by
  rw [← pow_add, Nat.add_sub_cancel' (by omega : l ≤ 7)]
  rfl

/-- Settles O26: `i` and `r` are quotient and remainder of the butterfly number by the length of a group. -/
theorem forwardAddressesFromPosition : Obligations.ForwardAddressesFromPosition := by
  intro k
  have hl := stageOf_lt k
  obtain ⟨-, hhi_lt, hrom1, hrom2⟩ := fwdPair_inRange k
  have hpos : 0 < 2 ^ (7 - stageOf k) := by positivity
  have hi : bflyOf k / 2 ^ (7 - stageOf k) < 2 ^ stageOf k :=
    Nat.div_lt_of_lt_mul (by rw [Nat.mul_comm, two_pow_stage_mul hl]; exact bflyOf_lt k)
  have hr := Nat.mod_lt (bflyOf k) hpos
  have hb := (Nat.div_add_mod' (bflyOf k) (2 ^ (7 - stageOf k))).symm
  have hpair : fwdPair k = _ := (congrArg (fwdPairAt (stageOf k)) hb).trans (fwdPairAt_group hr hl)
  have hgroup : 2 ^ (8 - stageOf k) = 2 * 2 ^ (7 - stageOf k) := by
    rw [← pow_succ', show 7 - stageOf k + 1 = 8 - stageOf k by omega]
  have hlo : (fwdPair k).lo =
      bflyOf k / 2 ^ (7 - stageOf k) * 2 ^ (8 - stageOf k) + bflyOf k % 2 ^ (7 - stageOf k) := by rw [hpair, hgroup]
  have hhi : (fwdPair k).hi = (fwdPair k).lo + 2 ^ (7 - stageOf k) := by rw [hpair]
  have hrom : (fwdPair k).rom = 2 ^ stageOf k + bflyOf k / 2 ^ (7 - stageOf k) := by rw [hpair]
  exact ⟨_, _, hi, hr, hb, hlo, hhi, hrom, by omega, Nat.le_of_lt_succ hhi_lt, hrom1, hrom2⟩

/-- Forward: `bflyTouching` is the one butterfly that touches a position (R130). -/
theorem existsUnique_fwdPairAt_touches {l x : Nat} (hl : l < 8) (hx : x < N) :
    ∃! b, b < 128 ∧ (x = (fwdPairAt l b).lo ∨ x = (fwdPairAt l b).hi) :=
  ⟨bflyTouching l x, ⟨bflyTouching_lt hl hx, (touches_iff hl).2 rfl⟩, fun _ ⟨_, h⟩ => ((touches_iff hl).1 h).symm⟩

/-- Settles O28: the inverse stage has the pairs of a forward stage. -/
theorem stageTouchesEveryWordOnce : Obligations.StageTouchesEveryWordOnce := by
  intro l x hl hx
  refine ⟨existsUnique_fwdPairAt_touches hl hx, ?_⟩
  simp only [invPairAt_eq_fwdPairAt hl]
  exact existsUnique_fwdPairAt_touches (by omega) hx

/-! ### Butterflies on different positions commute -/

section Commute

variable {comb : Nat → Nat → Nat → Nat × Nat} {tw : Twiddles} {pr pr' : Pair}

/-- A pair has this position. -/
def Pair.Has (pr : Pair) (x : Nat) : Prop := x = pr.lo ∨ x = pr.hi

/-- The second of two butterflies on disjoint pairs sees the operands as they were before the first. -/
theorem combineAt_combineAt_apply (h : ∀ y, pr'.Has y → ¬ pr.Has y) (p : Coeffs) {x : Nat} (hx : ¬ pr.Has x) :
    combineAt comb tw (combineAt comb tw p pr) pr' x = combineAt comb tw p pr' x :=
  combineAt_congr comb tw (combineAt_of_not_touched comb tw p (h _ (.inl rfl)))
    (combineAt_of_not_touched comb tw p (h _ (.inr rfl))) (combineAt_of_not_touched comb tw p hx)

theorem combineAt_comm_of_disjoint (h : ∀ y, pr'.Has y → ¬ pr.Has y) (p : Coeffs) :
    combineAt comb tw (combineAt comb tw p pr) pr' = combineAt comb tw (combineAt comb tw p pr') pr := by
  funext x
  by_cases hx : pr.Has x
  · have hx' : ¬ pr'.Has x := fun hx' => h x hx' hx
    rw [combineAt_of_not_touched comb tw _ hx', combineAt_combineAt_apply (fun y hy hy' => h y hy' hy) p hx']
  · rw [combineAt_combineAt_apply h p hx, combineAt_of_not_touched comb tw _ hx]

theorem fwdPairAt_has_iff {l b x : Nat} (hl : l < 8) : (fwdPairAt l b).Has x ↔ bflyTouching l x = b := touches_iff hl

/-- Two butterflies of one stage are the same one, or disjoint (R133(b)). -/
theorem combineAt_fwdPairAt_comm {l : Nat} (hl : l < 8) (b c : Nat) (p : Coeffs) :
    combineAt comb tw (combineAt comb tw p (fwdPairAt l b)) (fwdPairAt l c) =
      combineAt comb tw (combineAt comb tw p (fwdPairAt l c)) (fwdPairAt l b) := by
  by_cases hbc : b = c
  · rw [hbc]
  · refine combineAt_comm_of_disjoint (fun y hc hb => hbc ?_) p
    rw [← (fwdPairAt_has_iff hl).1 hb, (fwdPairAt_has_iff hl).1 hc]

end Commute

/-- Settles O36: two butterflies of one stage share no position unless they are the same. -/
theorem butterfliesOfAStageCommute : Obligations.ButterfliesOfAStageCommute := by
  intro p l b c _ hl _ _
  rw [invPairAt_eq_fwdPairAt hl, invPairAt_eq_fwdPairAt hl]
  exact ⟨combineAt_fwdPairAt_comm hl b c p, combineAt_fwdPairAt_comm (by omega) b c p⟩

/-- Settles O48: over any twiddle words both forms are the same stages of butterflies. -/
theorem sequencerOrderIsTheLoopNest : Obligations.SequencerOrderIsTheLoopNest :=
  fun p _ => ⟨nttFwdFn_eq_fwdInSequence p, nttInvFn_eq_invInSequence p⟩

/-! ### The micro-op `BFLY_CT` -/

section BflyCt

variable {s : State}

theorem afterCt_putBuf_of_ne (h : s.k ≠ 1023#10) (m : Memory) : afterCt (s.putBuf m) = (s.putBuf m).advance := if_neg h

theorem afterCt_putBuf_of_eq (h : s.k = 1023#10) (m : Memory) : afterCt (s.putBuf m) = (s.putBuf m).complete := if_pos h

@[simp] theorem afterCt_buf (s : State) : (afterCt s).buf = s.buf := by
  unfold afterCt
  split <;> rfl

/-- With residue operands `BFLY_CT` goes on: it writes its pair, then moves the sequencer (R132, R33). -/
theorem execBflyCt_of_residues {u w : Word} (hrun : s.busy = true ∧ s.phase = .bfly ∧ s.op = .fwd)
    (hlo : Memory.read s.buf (fwdPair s.k).lo = some u) (hu : u.toNat < Q)
    (hhi : Memory.read s.buf (fwdPair s.k).hi = some w) (hw : w.toNat < Q) :
    execBflyCt s = .next (afterCt (s.putBuf (writePair s.buf (fwdPair s.k)
      (ctOut u.toNat w.toNat (romWord .twf (fwdPair s.k).rom))))) := by
  obtain ⟨hlo_lt, hhi_lt, hrom1, hrom2⟩ := fwdPair_inRange s.k
  exact execBflyCt_eq_next.2 ⟨hrun, _, butterfly_eq_next.2 ⟨_, _, _,
    readResidue_eq_next.2 ⟨hlo_lt, u, hlo, hu, rfl⟩, readResidue_eq_next.2 ⟨hhi_lt, w, hhi, hw, rfl⟩,
    romWord?_eq_some (by decide) hrom1 hrom2, rfl⟩, rfl⟩

/-- Settles O31: the two writes of the pair, read back, and the two ways the sequencer goes on. -/
theorem butterflyCtComputesAndAdvances : Obligations.ButterflyCtComputesAndAdvances := by
  intro s u w hb hp hop hlo hu hhi hw
  obtain ⟨-, -, hrom1, hrom2⟩ := fwdPair_inRange s.k
  have hne : (fwdPair s.k).lo ≠ (fwdPair s.k).hi := fwdPairAt_lo_ne_hi (stageOf_lt s.k) _
  refine ⟨_, _, execBflyCt_of_residues ⟨hb, hp, hop⟩ hlo hu hhi hw, romWord?_eq_some (by decide) hrom1 hrom2,
    ?_, ?_, fun a ha1 ha2 => ?_, fun hk => ?_, fun hk => ?_⟩
  · rw [afterCt_buf, State.putBuf_buf, read_writePair, if_neg hne, if_pos rfl]
    rfl
  · rw [afterCt_buf, State.putBuf_buf, read_writePair, if_pos rfl]
    rfl
  · rw [afterCt_buf, State.putBuf_buf, read_writePair, if_neg ha2, if_neg ha1]
  · rw [afterCt_putBuf_of_ne hk]
    rfl
  · rw [afterCt_putBuf_of_eq hk]
    rfl

end BflyCt

end Sys2Proof.Machine

/-! ## The forward transform evaluates (42_forward_transform.md R136)

Before stage `l`, with `n = 8 - l`, group `g` of `2^n` positions holds a polynomial of degree below `2^n`. A stage
halves each group: with `z` the ROM word of the group and `h` its half length, the two halves are the polynomial reduced
modulo `X^h - z` and `X^h + z`. So the value at `x` of the group that holds position `k` stays the same, stage by stage,
when `x^h` is `z` or `-z` as `k` lies in the lower or the upper half; after the last stage it is the word at `k`. -/

namespace Sys2Proof.Machine

open Sys2Proof.Config

variable {p : Coeffs} {tw : Twiddles} {x : ZMod Q} {l n i b k root : Nat}

/-- The value at `x` of the polynomial in group `g` of `2^n` positions. -/
def groupValue (n g : Nat) (x : ZMod Q) (p : Coeffs) : ZMod Q :=
  ∑ r ∈ Finset.range (2 ^ n), (p (g * 2 ^ n + r) : ZMod Q) * x ^ r

theorem groupValue_zero (g : Nat) (x : ZMod Q) (p : Coeffs) : groupValue 0 g x p = p g := by
  simp [groupValue]

/-- A group is its lower half and `x^(2^n)` times its upper half. -/
theorem groupValue_succ (n g : Nat) (x : ZMod Q) (p : Coeffs) :
    groupValue (n + 1) g x p = groupValue n (2 * g) x p + x ^ 2 ^ n * groupValue n (2 * g + 1) x p := by
  have hlow (r : Nat) : g * 2 ^ (n + 1) + r = 2 * g * 2 ^ n + r := by ring
  have hhigh (r : Nat) : 2 * g * 2 ^ n + (2 ^ n + r) = (2 * g + 1) * 2 ^ n + r := by ring
  have hlen : Finset.range (2 ^ (n + 1)) = Finset.range (2 ^ n + 2 ^ n) := by rw [← Nat.two_mul, pow_succ']
  rw [groupValue, hlen, Finset.sum_range_add]
  simp only [groupValue, Finset.mul_sum, hlow, hhigh, pow_add x, mul_left_comm]

/-- Half `b` of a group after a stage: the lower half plus or minus the upper half times the ROM word (R132). -/
theorem natCast_stage_ct (hln : l + (n + 1) = 8) (hi : i < 2 ^ l) (hb : b < 2) {r : Nat} (hr : r < 2 ^ n) (p : Coeffs) :
    (stageInSequence ctOut tw l p ((2 * i + b) * 2 ^ n + r) : ZMod Q) =
      p (2 * i * 2 ^ n + r) + (-1) ^ b * tw (2 ^ l + i) * p ((2 * i + 1) * 2 ^ n + r) := by
  have hl : l < 8 := by omega
  obtain rfl : n = 7 - l := by omega
  have hpair := fwdPairAt_group (i := i) hr hl
  have hlo : (fwdPairAt l (i * 2 ^ (7 - l) + r)).lo = 2 * i * 2 ^ (7 - l) + r := by rw [hpair]; ring
  have hhi : (fwdPairAt l (i * 2 ^ (7 - l) + r)).hi = (2 * i + 1) * 2 ^ (7 - l) + r := by rw [hpair]; ring
  have hrom : (fwdPairAt l (i * 2 ^ (7 - l) + r)).rom = 2 ^ l + i := by rw [hpair]
  have hbfly : i * 2 ^ (7 - l) + r < 128 :=
    calc i * 2 ^ (7 - l) + r < (i + 1) * 2 ^ (7 - l) := by rw [Nat.succ_mul]; omega
      _ ≤ 2 ^ l * 2 ^ (7 - l) := Nat.mul_le_mul_right _ hi
      _ = 128 := two_pow_stage_mul hl
  obtain ⟨h1, h2⟩ := natCast_ctOut (p (2 * i * 2 ^ (7 - l) + r)) (p ((2 * i + 1) * 2 ^ (7 - l) + r)) (tw (2 ^ l + i))
  obtain rfl | rfl : b = 0 ∨ b = 1 := by omega
  · have hstage := stageInSequence_lo ctOut tw hl hbfly p
    rw [hlo, hhi, hrom] at hstage
    rw [Nat.add_zero, hstage, h1]
    ring
  · have hstage := stageInSequence_hi ctOut tw hl hbfly p
    rw [hlo, hhi, hrom] at hstage
    rw [hstage, h2]
    ring

/-- A stage keeps the value of a group at every point where `X^(2^n)` is what its half `b` is reduced by. -/
theorem groupValue_stage (hln : l + (n + 1) = 8) (hi : i < 2 ^ l) (hb : b < 2)
    (hx : x ^ 2 ^ n = (-1) ^ b * tw (2 ^ l + i)) (p : Coeffs) :
    groupValue n (2 * i + b) x (stageInSequence ctOut tw l p) = groupValue (n + 1) i x p := by
  rw [groupValue_succ, hx]
  simp only [groupValue, Finset.mul_sum, ← Finset.sum_add_distrib]
  refine Finset.sum_congr rfl fun r hr => ?_
  rw [natCast_stage_ct hln hi hb (Finset.mem_range.1 hr)]
  ring

theorem div_two_pow_lt (hln : l + n = 8) (hk : k < N) : k / 2 ^ n < 2 ^ l :=
  Nat.div_lt_of_lt_mul (by rw [← pow_add, Nat.add_comm, hln]; exact hk)

theorem div_two_pow_div_two (k n : Nat) : k / 2 ^ n / 2 = k / 2 ^ (n + 1) := by rw [Nat.div_div_eq_div_mul, pow_succ]

/-- At `x` every stage reduces the group that holds position `k` to its half that holds `k`. -/
def PointOf (tw : Twiddles) (k : Nat) (x : ZMod Q) : Prop :=
  ∀ l n, l + (n + 1) = 8 → x ^ 2 ^ n = (-1) ^ (k / 2 ^ n % 2) * tw (2 ^ l + k / 2 ^ (n + 1))

/-- What the stages from `l` on leave at position `k`. -/
theorem natCast_foldl_stage (hx : PointOf tw k x) (hk : k < N) (n l : Nat) (h : l + n = 8) (p : Coeffs) :
    ((List.range' l n).foldl (fun p l => stageInSequence ctOut tw l p) p k : ZMod Q) = groupValue n (k / 2 ^ n) x p := by
  induction n generalizing l p with
  | zero => rw [groupValue_zero, pow_zero, Nat.div_one]; rfl
  | succ n ih =>
    rw [List.range'_succ, List.foldl_cons, ih (l + 1) (by omega), ← Nat.div_add_mod (k / 2 ^ n) 2, div_two_pow_div_two]
    exact groupValue_stage h (div_two_pow_lt h hk) (Nat.mod_lt _ Nat.two_pos) (hx l n h) p

/-- Over any words, position `k` holds the value at each of its points. -/
theorem natCast_nttFwdWith (hx : PointOf tw k x) (hk : k < N) (p : Coeffs) :
    (nttFwdWith tw p k : ZMod Q) = ∑ a ∈ Finset.range N, (p a : ZMod Q) * x ^ a := by
  rw [nttFwdWith_eq_foldl, List.range_eq_range', natCast_foldl_stage hx hk 8 0 rfl, groupValue]
  simp only [show k / 2 ^ 8 = 0 from Nat.div_eq_of_lt hk, Nat.zero_mul, Nat.zero_add]
  rfl

/-- The exponent of position `k` in stage `l`: that of the ROM word of its group, and 256 if `k` is in the upper half. -/
theorem brv_point (hln : l + (n + 1) = 8) (hk : k < N) :
    ∃ j, (2 * brv LOGN k + 1) * 2 ^ n =
      256 * (2 * j + k / 2 ^ n % 2) + brv LOGN (2 ^ l + k / 2 ^ (n + 1)) := by
  have hgroup := div_two_pow_lt hln hk
  have hword : brv LOGN (2 ^ l + k / 2 ^ (n + 1)) = 2 ^ n * (2 * brv l (k / 2 ^ (n + 1)) + 1) := by
    rw [← brv_stage hgroup, hln]
  have hpos : brv LOGN k = brv n (k % 2 ^ n) * 2 ^ (l + 1) + (k / 2 ^ n % 2 * 2 ^ l + brv l (k / 2 ^ (n + 1))) := by
    rw [← div_two_pow_div_two, ← brv, ← brv_add, show n + (l + 1) = LOGN by unfold LOGN; omega]
  have h256 : 256 = 2 ^ l * 2 ^ n * 2 := by rw [mul_assoc, ← pow_succ, ← pow_add, hln]; rfl
  refine ⟨brv n (k % 2 ^ n), ?_⟩
  rw [hword, hpos, h256]
  ring

/-- With the ROM image of the rule, position `k` has the point `root^(2 * brv_8(k) + 1)` (R136, R112). -/
theorem FollowsRule.pointOf (h : FollowsRule root tw) (hk : k < N) :
    PointOf tw k ((root : ZMod Q) ^ (2 * brv LOGN k + 1)) := by
  intro l n hln
  obtain ⟨j, hj⟩ := brv_point hln hk
  have hgroup := div_two_pow_lt hln hk
  have hpos : 1 ≤ 2 ^ l + k / 2 ^ (n + 1) := Nat.le_add_right_of_le Nat.one_le_two_pow
  have hle : 2 ^ l ≤ 128 := Nat.pow_le_pow_right Nat.two_pos (by omega : l ≤ 7)
  rw [h.natCast_word hpos (by unfold ROMDEPTH; omega), ← pow_mul, hj, pow_add, pow_mul, h.root_pow, pow_add,
    pow_mul, neg_one_sq, one_pow, one_mul]

theorem natCast_evalAtPoint (p : Coeffs) (k : Nat) :
    (evalAtPoint p k : ZMod Q) =
      ∑ a ∈ Finset.range N, (p a : ZMod Q) * ((PSI : ZMod Q) ^ (2 * brv LOGN k + 1)) ^ a := by
  rw [evalAtPoint, ← modred, natCast_modred, Nat.cast_sum]
  simp only [Nat.cast_mul, Nat.cast_pow, pow_mul]

/-- Settles O58: every stage keeps the value at the point of position `k`. -/
theorem forwardEvaluatesInBitReversedOrder : Obligations.ForwardEvaluatesInBitReversedOrder := by
  intro p hp k hk
  refine eq_of_natCast_eq ((linearOnClasses_nttFwdWith _).valid p hp k hk) (modred_lt _) ?_
  rw [natCast_evalAtPoint]
  exact natCast_nttFwdWith (followsRule_romWord_twf.pointOf hk) hk p

end Sys2Proof.Machine

/-! ## The inverse transform (43_inverse_transform.md R150 to R155)

Its addresses are those of the forward stages run backwards; `BFLY_GS` and `SCALE` write their words and move the
sequencer on. -/

namespace Sys2Proof.Machine

open Sys2Proof.Config

/-! ### Addresses -/

/-- Settles O30, by the rule for the pairs of an inverse stage. -/
theorem inverseStagesRunForwardStagesBackwards : Obligations.InverseStagesRunForwardStagesBackwards :=
  fun _ b hl _ => invPairAt_eq_fwdPairAt hl b

/-- Inverse position `K` has the addresses of forward position `{7 - K[9:7], K[6:0]}` (R150). -/
theorem exists_fwdPair_eq_invPair (k : BitVec 10) :
    ∃ k', stageOf k' = 7 - stageOf k ∧ bflyOf k' = bflyOf k ∧ fwdPair k' = invPair k := by
  have hl := stageOf_lt k
  obtain ⟨hstage, hbfly⟩ := stageOf_bflyOf_ofNat (by omega : 7 - stageOf k < 8) (bflyOf_lt k)
  exact ⟨_, hstage, hbfly, by rw [fwdPair, hstage, hbfly, invPair, invPairAt_eq_fwdPairAt hl]⟩

/-- Settles O27: the forward addresses of the stage that visits the same pairs. -/
theorem inverseAddressesFromPosition : Obligations.InverseAddressesFromPosition := by
  intro k
  have hl : k.toNat / 128 < 8 := stageOf_lt k
  obtain ⟨k', (hstage : k'.toNat / 128 = 7 - k.toNat / 128), (hbfly : k'.toNat % 128 = k.toNat % 128), hpair⟩ :=
    exists_fwdPair_eq_invPair k
  have haddr := forwardAddressesFromPosition k'
  rwa [hstage, hbfly, hpair, Nat.sub_sub_self (by omega), show 8 - (7 - k.toNat / 128) = k.toNat / 128 + 1 by omega]
    at haddr

theorem invPair_lo_ne_hi (k : BitVec 10) : (invPair k).lo ≠ (invPair k).hi := by
  rw [invPair, invPairAt_eq_fwdPairAt (stageOf_lt k)]
  exact fwdPairAt_lo_ne_hi (by omega) _

/-! ### The micro-op `BFLY_GS` -/

section BflyGs

variable {s : State}

theorem afterGs_putBuf_of_ne (h : s.k ≠ 1023#10) (m : Memory) : afterGs (s.putBuf m) = (s.putBuf m).advance := if_neg h

theorem afterGs_putBuf_of_eq (h : s.k = 1023#10) (m : Memory) : afterGs (s.putBuf m) = (s.putBuf m).toScale := if_pos h

@[simp] theorem afterGs_buf (s : State) : (afterGs s).buf = s.buf := by
  unfold afterGs
  split <;> rfl

/-- With residue operands `BFLY_GS` goes on: it writes its pair, then moves the sequencer (R152, R34). -/
theorem execBflyGs_of_residues {u v : Word} (hrun : s.busy = true ∧ s.phase = .bfly ∧ s.op = .inv)
    (hlo : Memory.read s.buf (invPair s.k).lo = some u) (hu : u.toNat < Q)
    (hhi : Memory.read s.buf (invPair s.k).hi = some v) (hv : v.toNat < Q) :
    execBflyGs s = .next (afterGs (s.putBuf (writePair s.buf (invPair s.k)
      (gsOut u.toNat v.toNat (romWord .twi (invPair s.k).rom))))) := by
  obtain ⟨hlo_lt, hhi_lt, hrom1, hrom2⟩ := invPair_inRange s.k
  have hreadLo := readResidue_eq_next.2 ⟨hlo_lt, u, hlo, hu, rfl⟩
  have hreadHi := readResidue_eq_next.2 ⟨hhi_lt, v, hhi, hv, rfl⟩
  have hword := romWord?_eq_some (sp := .twi) (by decide) hrom1 hrom2
  exact execBflyGs_eq_next.2 ⟨hrun, _, butterfly_eq_next.2 ⟨_, _, _, hreadLo, hreadHi, hword, rfl⟩, rfl⟩

/-- Settles O32: the two writes of the pair, read back, and the two ways the sequencer goes on. -/
theorem butterflyGsComputesAndAdvances : Obligations.ButterflyGsComputesAndAdvances := by
  intro s u v hb hp hop hlo hu hhi hv
  obtain ⟨-, -, hrom1, hrom2⟩ := invPair_inRange s.k
  have hexec := execBflyGs_of_residues ⟨hb, hp, hop⟩ hlo hu hhi hv
  refine ⟨_, _, hexec, romWord?_eq_some (by decide) hrom1 hrom2, ?_⟩
  simp only [afterGs_buf, State.putBuf_buf, read_writePair, if_true]
  refine ⟨?low, ?high, fun a ha1 ha2 => ?frame, fun hk => ?advance, fun hk => ?last⟩
  case low =>
    rw [if_neg (invPair_lo_ne_hi s.k)]
    rfl
  case high => rfl
  case frame => rw [if_neg ha2, if_neg ha1]
  case advance =>
    rw [afterGs_putBuf_of_ne hk]
    rfl
  case last =>
    rw [afterGs_putBuf_of_eq hk]
    rfl

end BflyGs

/-! ### The micro-op `SCALE` -/

section Scale

variable {s : State}

theorem afterScale_putBuf_of_ne (h : s.k ≠ 255#10) (m : Memory) :
    afterScale (s.putBuf m) = (s.putBuf m).advance := if_neg h

theorem afterScale_putBuf_of_eq (h : s.k = 255#10) (m : Memory) :
    afterScale (s.putBuf m) = (s.putBuf m).complete := if_pos h

@[simp] theorem afterScale_buf (s : State) : (afterScale s).buf = s.buf := by
  unfold afterScale
  split <;> rfl

/-- With a residue operand `SCALE` goes on: it writes its word, then moves the sequencer (R155, R35). -/
theorem execScale_of_residue {x : Word} (hrun : s.busy = true ∧ s.phase = .scale) (hk : s.k.toNat < N)
    (hx : Memory.read s.buf s.k.toNat = some x) (hq : x.toNat < Q) :
    execScale s = .next (afterScale (s.putBuf (memWrite s.buf s.k.toNat (scaleOut x.toNat)))) := by
  have hread := readResidue_eq_next.2 ⟨hk, x, hx, hq, rfl⟩
  exact execScale_eq_next.2 ⟨hrun, _, scaleWord_eq_next.2 ⟨_, hread, rfl⟩, rfl⟩

/-- Settles O33: the one write, read back, and the two ways the sequencer goes on. -/
theorem scaleComputesAndAdvances : Obligations.ScaleComputesAndAdvances := by
  intro s x hb hp hrange hx hq
  refine ⟨_, execScale_of_residue ⟨hb, hp⟩ hrange hx hq, ?_⟩
  simp only [afterScale_buf, State.putBuf_buf, read_memWrite, if_true]
  refine ⟨?word, fun a ha => ?frame, fun hk => ?advance, fun hk => ?last⟩
  case word => rfl
  case frame => rw [if_neg ha]
  case advance =>
    rw [afterScale_putBuf_of_ne hk]
    rfl
  case last =>
    rw [afterScale_putBuf_of_eq hk]
    rfl

end Scale

end Sys2Proof.Machine

/-! ## The laws of every image (R171, R173, R174, R175, R180)

What follows from the transforms being linear on classes, and the unit impulse, which no word of the image touches. -/

namespace Sys2Proof.Machine

open Sys2Proof.Config

variable {f : Coeffs → Coeffs} {p q r : Coeffs} {tw : Twiddles} {l n : Nat}

/-! ### Linear operations keep sums, multiples and zero -/

theorem validCoeffs_addFn (p r : Coeffs) : validCoeffs (addFn p r) := fun _ _ => modred_lt _

theorem validCoeffs_smulFn (c : Nat) (p : Coeffs) : validCoeffs (smulFn c p) := fun _ _ => modred_lt _

theorem classes_addFn (p r : Coeffs) : classes (addFn p r) = classes p + classes r :=
  funext fun a => natCast_modadd (p a) (r a)

theorem classes_smulFn (c : Nat) (p : Coeffs) : classes (smulFn c p) = (c : ZMod Q) • classes p :=
  funext fun a => natCast_modmul c (p a)

namespace LinearOnClasses

/-- Equal classes in, equal words out. -/
theorem apply_eq_of_classes_eq (hf : LinearOnClasses f) (hp : validCoeffs p) (hq : validCoeffs q)
    (h : classes q = classes p) : ∀ a < N, f q a = f p a :=
  eqOn_of_classes_eq (hf.valid q hq) (hf.valid p hp) (hf.classes_congr hp hq h)

theorem linearLaw (hf : LinearOnClasses f) : linearLaw f := by
  intro p r c hp hr _ a ha
  obtain ⟨F, hF⟩ := hf.exists_linear
  have hsum : classes (f (addFn p r)) = classes (addFn (f p) (f r)) := by
    rw [hF _ (validCoeffs_addFn p r), classes_addFn, map_add, classes_addFn, hF p hp, hF r hr]
  have hmul : classes (f (smulFn c p)) = classes (smulFn c (f p)) := by
    rw [hf.classes_eq_smul hp (validCoeffs_smulFn c p) (classes_smulFn c p), classes_smulFn]
  exact ⟨eqOn_of_classes_eq (hf.valid _ (validCoeffs_addFn p r)) (validCoeffs_addFn _ _) hsum a ha,
    eqOn_of_classes_eq (hf.valid _ (validCoeffs_smulFn c p)) (validCoeffs_smulFn c _) hmul a ha⟩

theorem zeroLaw (hf : LinearOnClasses f) : zeroLaw f := by
  intro p hp
  obtain ⟨F, hF⟩ := hf.exists_linear
  have hvalid : validCoeffs p := fun a ha => by rw [hp a ha]; decide
  have hzero : classes p = 0 := funext fun a => by rw [classes, hp a a.isLt, Nat.cast_zero, Pi.zero_apply]
  have hout : classes (f p) = classes fun _ => 0 := by
    rw [hF p hvalid, hzero, map_zero]
    exact funext fun _ => Nat.cast_zero.symm
  exact eqOn_of_classes_eq (hf.valid p hvalid) (fun _ _ => by decide) hout

end LinearOnClasses

/-! ### The unit impulse -/

/-- Each of the `2^l` groups of `2^n` positions holds the polynomial 1. -/
def GroupsHoldOne (l n : Nat) (p : Coeffs) : Prop :=
  ∀ i < 2 ^ l, ∀ r < 2 ^ n, (p (i * 2 ^ n + r) : ZMod Q) = if r = 0 then 1 else 0

/-- The upper half of each group is 0, so both halves become the lower one, whatever the ROM word. -/
theorem groupsHoldOne_stage (hln : l + (n + 1) = 8) (h : GroupsHoldOne l (n + 1) p) :
    GroupsHoldOne (l + 1) n (stageInSequence ctOut tw l p) := by
  intro g hg r hr
  have hi : g / 2 < 2 ^ l := Nat.div_lt_of_lt_mul (by rwa [← pow_succ'])
  have hlen : 2 ^ (n + 1) = 2 ^ n + 2 ^ n := by rw [pow_succ, Nat.mul_two]
  have hlow : 2 * (g / 2) * 2 ^ n + r = g / 2 * 2 ^ (n + 1) + r := by ring
  have hhigh : (2 * (g / 2) + 1) * 2 ^ n + r = g / 2 * 2 ^ (n + 1) + (2 ^ n + r) := by ring
  have hstage := natCast_stage_ct (tw := tw) hln hi (Nat.mod_lt g Nat.two_pos) hr p
  rwa [Nat.div_add_mod, hlow, hhigh, h _ hi r (by omega), h _ hi (2 ^ n + r) (by omega),
    if_neg (by omega : 2 ^ n + r ≠ 0), mul_zero, add_zero] at hstage

theorem groupsHoldOne_foldl (n l : Nat) (hln : l + n = 8) (h : GroupsHoldOne l n p) :
    GroupsHoldOne 8 0 ((List.range' l n).foldl (fun p l => stageInSequence ctOut tw l p) p) := by
  induction n generalizing l p with
  | zero => exact (hln : l = 8) ▸ h
  | succ n ih =>
    rw [List.range'_succ, List.foldl_cons]
    exact ih (l + 1) (by omega) (groupsHoldOne_stage hln h)

theorem validCoeffs_impulse (hp : ∀ a < N, p a = if a = 0 then 1 else 0) : validCoeffs p := by
  intro a ha
  rw [hp a ha]
  split <;> decide

theorem impulseLaw_of_any (tw : Twiddles) : impulseLaw tw := by
  intro p hp k hk
  have hone : GroupsHoldOne 0 8 p := by
    intro i hi r hr
    obtain rfl : i = 0 := Nat.lt_one_iff.1 hi
    rw [Nat.zero_mul, Nat.zero_add, hp r hr, Nat.cast_ite, Nat.cast_one, Nat.cast_zero]
  have hout : (nttFwdWith tw p k : ZMod Q) = 1 := by
    rw [nttFwdWith_eq_foldl, List.range_eq_range']
    simpa using groupsHoldOne_foldl (tw := tw) 8 0 rfl hone k hk 0 Nat.one_pos
  exact eq_of_natCast_eq ((linearOnClasses_nttFwdWith tw).valid p (validCoeffs_impulse hp) k hk) (by decide)
    (by rw [hout, Nat.cast_one])

/-- R180, first row. -/
theorem imageFreeLaws_of_any (twf twi : Twiddles) : imageFreeLaws twf twi :=
  have hfwd := linearOnClasses_nttFwdWith twf
  have hinv := linearOnClasses_nttInvWith twi
  ⟨hfwd.linearLaw, hinv.linearLaw, hfwd.zeroLaw, hinv.zeroLaw, impulseLaw_of_any twf, hfwd.valid, hinv.valid⟩

end Sys2Proof.Machine

/-! ## The convolution law, from the splitting property (R172, R180)

With the splitting property every position of the forward transform holds the value at a point `x` with `x^256 = -1`
(`PointOf`). At such a point the negacyclic convolution has the product of the values; so the forward transform takes it
to the pointwise product, and the round trip brings it back. -/

namespace Sys2Proof.Machine

open Sys2Proof.Config

variable {p r : Coeffs} {tw twf twi : Twiddles} {x : ZMod Q} {b j k m : Nat}

/-! ### The points of an image that splits -/

/-- R116(g): the words at `2 * j` and `2 * j + 1` are square roots of the word at `j` and of its negative. -/
theorem natCast_word_sq (hres : residueWords tw) (hs : splits tw) (h1 : 1 ≤ j) (hj : j ≤ 127) (hb : b < 2) :
    (tw (2 * j + b) : ZMod Q) ^ 2 = (-1) ^ b * tw j := by
  obtain ⟨heven, hodd⟩ := hs.2 j h1 hj
  rw [sq, ← natCast_modmul]
  obtain rfl | rfl : b = 0 ∨ b = 1 := by omega
  · rw [Nat.add_zero, heven, pow_zero, one_mul]
  · have hlt : tw j < Q := hres j h1 (hj.trans (by decide))
    rw [hodd, Nat.cast_sub hlt.le, show ((12289 : Nat) : ZMod Q) = 0 from ZMod.natCast_self Q, pow_one, zero_sub,
      neg_one_mul]

theorem neg_one_pow_mul_sq (n : Nat) (y : ZMod Q) : ((-1) ^ n * y) ^ 2 = y ^ 2 := by
  rw [mul_pow, ← pow_mul, mul_comm n, pow_mul, neg_one_sq, one_pow, one_mul]

/-- The point of position `k`: what the last stage reduces by. -/
def pointAt (tw : Twiddles) (k : Nat) : ZMod Q := (-1) ^ (k % 2) * tw (2 ^ 7 + k / 2)

/-- A stage's word is the square of the next stage's, up to the sign. -/
theorem pointOf_pointAt (hres : residueWords tw) (hs : splits tw) (hk : k < N) : PointOf tw k (pointAt tw k) := by
  intro l n hln
  induction n generalizing l with
  | zero =>
    obtain rfl : l = 7 := by omega
    rw [pow_zero, pow_one, Nat.div_one, Nat.zero_add, pow_one, pointAt]
  | succ n ih =>
    have hgroup : k / 2 ^ (n + 2) < 2 ^ l := div_two_pow_lt hln hk
    have hle : 2 ^ l ≤ 64 := Nat.pow_le_pow_right Nat.two_pos (by omega : l ≤ 6)
    have hword : 2 ^ (l + 1) + k / 2 ^ (n + 1) = 2 * (2 ^ l + k / 2 ^ (n + 2)) + k / 2 ^ (n + 1) % 2 := by
      rw [pow_succ', Nat.mul_add, ← div_two_pow_div_two k (n + 1), Nat.add_assoc, Nat.div_add_mod]
    calc pointAt tw k ^ 2 ^ (n + 1)
        = ((-1) ^ (k / 2 ^ n % 2) * tw (2 ^ (l + 1) + k / 2 ^ (n + 1))) ^ 2 := by
          rw [← ih (l + 1) (by omega), ← pow_mul, ← pow_succ]
      _ = (tw (2 ^ (l + 1) + k / 2 ^ (n + 1)) : ZMod Q) ^ 2 := neg_one_pow_mul_sq _ _
      _ = (-1) ^ (k / 2 ^ (n + 1) % 2) * tw (2 ^ l + k / 2 ^ (n + 2)) := by
          rw [hword]
          exact natCast_word_sq hres hs (Nat.le_add_right_of_le Nat.one_le_two_pow) (by omega)
            (Nat.mod_lt _ Nat.two_pos)

theorem PointOf.pow_N (hx : PointOf tw k x) (hs : splits tw) (hk : k < N) : x ^ N = -1 := by
  have hgroup : k / 2 ^ 8 = 0 := Nat.div_eq_of_lt hk
  have hroot : (tw 1 : ZMod Q) * tw 1 = -1 := by
    rw [← natCast_modmul, hs.1]
    decide
  rw [show N = 2 ^ 7 * 2 from rfl, pow_mul, hx 0 7 rfl, hgroup, neg_one_pow_mul_sq, sq]
  exact hroot

/-! ### The negacyclic convolution at a point -/

theorem natCast_emod_toNat (z : Int) : ((z % (Q : Int)).toNat : ZMod Q) = z := by
  rw [← Int.cast_natCast, Int.toNat_of_nonneg (Int.emod_nonneg z (by decide)), ZMod.intCast_mod]

theorem validCoeffs_negacyc (p r : Coeffs) : validCoeffs (negacyc p r) := fun _ _ =>
  (Int.toNat_lt (Int.emod_nonneg _ (by decide))).2 (Int.emod_lt_of_pos _ (by decide))

/-- The coefficient of `X^m` at position `k`, modulo `X^256 + 1` and for `m` below 512. -/
def wrapCoeff (m k : Nat) : ZMod Q := (if m = k then 1 else 0) - if m = k + N then 1 else 0

theorem natCast_negacyc (p r : Coeffs) (k : Nat) :
    (negacyc p r k : ZMod Q) =
      ∑ a ∈ Finset.range N, ∑ b ∈ Finset.range N, (p a : ZMod Q) * r b * wrapCoeff (a + b) k := by
  rw [negacyc, natCast_emod_toNat]
  simp only [Int.cast_sub, Int.cast_sum, Int.cast_ite, Int.cast_mul, Int.cast_natCast, Int.cast_zero,
    ← Finset.sum_sub_distrib, wrapCoeff, mul_sub, mul_ite, mul_one, mul_zero]

/-- At a root of `X^256 + 1` wrapping around changes no value. -/
theorem sum_wrapCoeff_mul_pow (hx : x ^ N = -1) (hm : m < N + N) :
    ∑ k ∈ Finset.range N, wrapCoeff m k * x ^ k = x ^ m := by
  simp only [wrapCoeff, sub_mul, ite_mul, one_mul, zero_mul, Finset.sum_sub_distrib]
  by_cases hlow : m < N
  · rw [Finset.sum_ite_eq, if_pos (Finset.mem_range.2 hlow),
      Finset.sum_eq_zero fun k _ => if_neg (by omega : m ≠ k + N), sub_zero]
  · obtain ⟨j, rfl⟩ := Nat.exists_eq_add_of_le' (not_lt.1 hlow)
    have hj : j < N := Nat.lt_of_add_lt_add_right hm
    simp only [Nat.add_right_cancel_iff]
    rw [Finset.sum_eq_zero fun k hk => if_neg (by have := Finset.mem_range.1 hk; omega : j + N ≠ k),
      Finset.sum_ite_eq, if_pos (Finset.mem_range.2 hj), pow_add, hx, mul_neg_one, zero_sub]

/-- The value of the negacyclic convolution at a root of `X^256 + 1`. -/
theorem sum_negacyc_mul_pow (hx : x ^ N = -1) (p r : Coeffs) :
    ∑ k ∈ Finset.range N, (negacyc p r k : ZMod Q) * x ^ k =
      (∑ a ∈ Finset.range N, (p a : ZMod Q) * x ^ a) * ∑ b ∈ Finset.range N, (r b : ZMod Q) * x ^ b := by
  rw [Finset.sum_mul_sum]
  simp only [natCast_negacyc, Finset.sum_mul]
  rw [Finset.sum_comm]
  refine Finset.sum_congr rfl fun a ha => ?_
  rw [Finset.sum_comm]
  refine Finset.sum_congr rfl fun b hb => ?_
  have hab : a + b < N + N := Nat.add_lt_add (Finset.mem_range.1 ha) (Finset.mem_range.1 hb)
  simp only [mul_assoc _ (wrapCoeff _ _)]
  rw [← Finset.mul_sum, sum_wrapCoeff_mul_pow hx hab, pow_add]
  ring

/-! ### The law -/

theorem classes_nttFwdWith_negacyc (hres : residueWords tw) (hs : splits tw) (p r : Coeffs) :
    classes (nttFwdWith tw (negacyc p r)) = classes (mulFn (nttFwdWith tw p) (nttFwdWith tw r)) := by
  funext k
  have hx := pointOf_pointAt hres hs k.isLt
  rw [classes, classes, mulFn, natCast_modmul, natCast_nttFwdWith hx k.isLt, natCast_nttFwdWith hx k.isLt,
    natCast_nttFwdWith hx k.isLt, sum_negacyc_mul_pow (hx.pow_N hs k.isLt)]

theorem convolutionLaw_of_splits (hres : residueWords twf) (hs : splits twf) (hi : inverseWords twf twi) :
    convolutionLaw twf twi := by
  intro p r _ _ k hk
  have hneg := validCoeffs_negacyc p r
  have hfwd := (linearOnClasses_nttFwdWith twf).valid _ hneg
  rw [← roundTripLaw_of_inverseWords hi _ hneg k hk]
  exact (linearOnClasses_nttInvWith twi).apply_eq_of_classes_eq hfwd (validCoeffs_mulFn _ _)
    (classes_nttFwdWith_negacyc hres hs p r).symm k hk

/-- Settles O59: linearity, the round trips and the value at a point are all over any words. -/
theorem lawsNeedOnlyTheirTableProperties : Obligations.LawsNeedOnlyTheirTableProperties := by
  intro twf twi hres _
  have hfree := imageFreeLaws_of_any twf twi
  refine ⟨hfree, fun hi => ?_⟩
  have hback := roundTripLaw_of_inverseWords hi
  have hforth := otherRoundTripLaw_of_inverseWords hi
  exact ⟨hback, hforth, fun hs => ⟨hfree, hback, hforth, convolutionLaw_of_splits hres hs hi⟩⟩

end Sys2Proof.Machine

/-! ## The contract properties of the block (44_contract_properties.md)

The laws above at the ROM image, and those of the butterflies themselves. -/

namespace Sys2Proof.Machine

open Sys2Proof.Config

/-! ### The image has the table properties -/

theorem FollowsRule.residueWords {root : Nat} {tw : Twiddles} (h : FollowsRule root tw) : residueWords tw :=
  fun k h1 h2 => h.word_eq k h1 h2 ▸ modred_lt _

theorem inverseWords_romWord : inverseWords (romWord .twf) (romWord .twi) := by
  intro k h1 h2
  rw [followsRule_romWord_twf.word_eq k h1 h2, followsRule_romWord_twi.word_eq k h1 h2]
  exact modmul_twgenWith (by decide) k

theorem imageFreeLaws_romWord : imageFreeLaws (romWord .twf) (romWord .twi) := imageFreeLaws_of_any _ _

/-! ### The transforms -/

/-- Settles O51: the words of the two ROMs are inverse. -/
theorem inverseUndoesForward : Obligations.InverseUndoesForward := roundTripLaw_of_inverseWords inverseWords_romWord

/-- Settles O52: the words of the two ROMs are inverse, and what can be undone is injective. -/
theorem forwardUndoesInverse : Obligations.ForwardUndoesInverse := by
  refine ⟨otherRoundTripLaw_of_inverseWords inverseWords_romWord, fun p r hp hr heq a ha => ?_⟩
  have hfwd := linearOnClasses_nttFwdWith (romWord .twf)
  have hclass : classes (nttFwdFn p) = classes (nttFwdFn r) :=
    funext fun k => congrArg (Nat.cast (R := ZMod Q)) (heq k k.isLt)
  calc p a = nttInvFn (nttFwdFn p) a := (inverseUndoesForward p hp a ha).symm
    _ = nttInvFn (nttFwdFn r) a :=
      (linearOnClasses_nttInvWith _).apply_eq_of_classes_eq (hfwd.valid r hr) (hfwd.valid p hp) hclass a ha
    _ = r a := inverseUndoesForward r hr a ha

/-- Settles O53: both transforms are linear on classes. -/
theorem transformsAreLinear : Obligations.TransformsAreLinear := by
  intro p r c hp hr hc a ha
  obtain ⟨hfwd, hinv, -⟩ := imageFreeLaws_romWord
  obtain ⟨hfwdAdd, hfwdMul⟩ := hfwd p r c hp hr hc a ha
  exact ⟨hfwdAdd, hfwdMul, hinv p r c hp hr hc a ha⟩

/-- Settles O54: the image splits and its words are inverse. -/
theorem pointwiseProductIsNegacyclicConvolution : Obligations.PointwiseProductIsNegacyclicConvolution :=
  convolutionLaw_of_splits followsRule_romWord_twf.residueWords followsRule_romWord_twf.splits inverseWords_romWord

/-- Settles O57: every primitive ends in `MODRED`. -/
theorem transformsReturnResidues : Obligations.TransformsReturnResidues :=
  fun p hp => ⟨(linearOnClasses_nttFwdWith _).valid p hp, (linearOnClasses_nttInvWith _).valid p hp⟩

/-- Settles O56: no word of the image touches the impulse; backwards, the round trip brings it back. -/
theorem unitImpulseBecomesAllOnes : Obligations.UnitImpulseBecomesAllOnes := by
  have hforth : impulseLaw (romWord .twf) := impulseLaw_of_any _
  refine ⟨hforth, fun p hp a ha => ?_⟩
  have himpulse : validCoeffs (monomial 1 0) := validCoeffs_monomial (by decide) 0
  have hones := (linearOnClasses_nttFwdWith (romWord .twf)).valid _ himpulse
  have hvalid : validCoeffs p := fun a ha => by rw [hp a ha]; decide
  have hclass : classes p = classes (nttFwdFn (monomial 1 0)) := by
    funext k
    rw [classes, classes, hp k k.isLt, nttFwdFn_eq, hforth (monomial 1 0) (fun _ _ => rfl) k k.isLt]
  calc nttInvFn p a = nttInvFn (nttFwdFn (monomial 1 0)) a :=
      (linearOnClasses_nttInvWith _).apply_eq_of_classes_eq hones hvalid hclass a ha
    _ = if a = 0 then 1 else 0 := inverseUndoesForward _ himpulse a ha

theorem ctOut_zero (s : Nat) : ctOut 0 0 s = (0, 0) := by
  rw [ctOut, modmul_comm, modmul_zero]
  rfl

theorem gsOut_zero (s : Nat) : gsOut 0 0 s = (0, 0) := by
  rw [gsOut, biasedDiff_self, modmul_sub_Q le_rfl, Nat.sub_self, modmul_comm, modmul_zero]
  rfl

/-- Settles O55: both transforms are linear on classes, and `0 * s` and `Q * s` have the class 0. -/
theorem transformsPreserveZero : Obligations.TransformsPreserveZero := by
  obtain ⟨-, -, hfwd, hinv, -⟩ := imageFreeLaws_romWord
  exact ⟨fun p hp a ha => ⟨hfwd p hp a ha, hinv p hp a ha⟩, fun s => ⟨ctOut_zero s, gsOut_zero s⟩, rfl⟩

/-! ### Two butterflies -/

/-- Outputs that are residues are known by their classes. -/
theorem UndoneUpToTwo.eq_twice {comb comb' : Nat → Nat → Nat → Nat × Nat} {s s' u w : Nat}
    (h : UndoneUpToTwo comb comb' s s') (hres : ResidueComb comb') (hu : u < Q) (hw : w < Q) :
    comb' (comb u w s).1 (comb u w s).2 s' = (2 * u % Q, 2 * w % Q) := by
  have htwice (a : Nat) : ((2 * a % Q : Nat) : ZMod Q) = 2 * a := by
    rw [← modred, natCast_modred, Nat.cast_mul, Nat.cast_ofNat]
  obtain ⟨hlo, hhi⟩ := hres (comb u w s).1 (comb u w s).2 s'
  obtain ⟨h1, h2⟩ := h u w hu hw
  exact Prod.ext (eq_of_natCast_eq hlo (modred_lt _) (by rw [h1, htwice]))
    (eq_of_natCast_eq hhi (modred_lt _) (by rw [h2, htwice]))

/-- Settles O35: by the classes of the outputs, in both orders. -/
theorem butterfliesUndoEachOther : Obligations.ButterfliesUndoEachOther := fun _ _ _ _ hu hw _ _ h =>
  ⟨(undoneUpToTwo_ct_gs h).eq_twice residueComb_gsOut hu hw,
    (undoneUpToTwo_gs_ct h).eq_twice residueComb_ctOut hu hw⟩

end Sys2Proof.Machine

/-! ## The result of a command ignores what came before it (R181)

A command that goes on faults at the lowest invalid word, or completes with the buffer that represents the transform
function's numbers; and the buffer that represents given numbers is unique. -/

namespace Sys2Proof.Machine

open Sys2Proof.Config

variable {s t : State} {m m' : Memory} {p : Coeffs} {d : Dir} {a : Nat} {w : Word}

theorem Memory.mem_of_read_eq_some (h : Memory.read m a = some w) : (a, w) ∈ m := by
  induction m with
  | nil => cases h
  | cons c m ih =>
    obtain ⟨b, v⟩ := c
    rw [Memory.read_cons] at h
    split at h
    · cases h
      exact ‹a = b› ▸ List.mem_cons_self
    · exact List.mem_cons_of_mem _ (ih h)

theorem Memory.read_eq_none_of_wf (hm : Memory.wf m) (ha : ¬ a < N) : Memory.read m a = none :=
  Option.eq_none_iff_forall_ne_some.2 fun _ h => ha (hm.2 _ (Memory.mem_of_read_eq_some h))

theorem Represents.read_eq (hm : Represents m p) (ha : a < N) : Memory.read m a = some (BitVec.ofNat W (p a)) := by
  obtain ⟨w, hw, -⟩ := isResidueAt_eq_true.1 (hm.valid a ha)
  rw [← hm.words, wordsOf, hw, Option.getD_some, BitVec.ofNat_toNat, BitVec.setWidth_eq]

theorem Represents.unique (hm : Represents m p) (hm' : Represents m' p) : m = m' := by
  refine Memory.ext_read hm.wf hm'.wf fun a => ?_
  by_cases ha : a < N
  · rw [hm.read_eq ha, hm'.read_eq ha]
  · rw [Memory.read_eq_none_of_wf hm.wf ha, Memory.read_eq_none_of_wf hm'.wf ha]

/-- An idle block with nothing scheduled waits (R203). -/
theorem step_of_idle (hts : s.turns = []) (hb : s.busy = false) : step s = .next s := by
  rw [step, fetch_leftToEngine (.unscheduled hts), putTurns_of_turns_eq hts, engineTurn, hb]
  rfl

theorem stepN_of_idle (hts : s.turns = []) (hb : s.busy = false) (n : Nat) : stepN n s = .next s := by
  induction n with
  | zero => rfl
  | succ n ih => rw [stepN, step_of_idle hts hb, andThen_next, ih]

/-- The block after a command that faulted at word `i`, with nothing scheduled (R190). -/
def State.faultedWith (s : State) (d : Dir) (i : Nat) : State :=
  ((s.putTurns []).latchCommand d).raiseInvalidResidue i

/-- Everything a command's run can end in. -/
theorem stepN_command_cases (hs : s.Inv) (hb : s.busy = false) (hts : s.turns = [moveCommand d])
    (h : stepN (1 + microOpsOf d) s = .next t) :
    s.err = false ∧
      ((∃ i, firstInvalid s.buf = some i ∧ t = s.faultedWith d i) ∨
        (firstInvalid s.buf = none ∧
          ∃ m, Represents m (transformFn d (wordsOf s.buf)) ∧ t = s.completedWith d m)) := by
  rw [stepN_add, stepN_one, step_moveCommand hts, andThen_eq_next] at h
  obtain ⟨u, haccept, hrun⟩ := h
  obtain ⟨-, he, hwritten, ⟨i, hi, rfl⟩ | ⟨hi, rfl⟩⟩ := acceptCommand_eq_next.1 haccept
  · have hidle := stepN_of_idle (s := s.faultedWith d i) rfl hb (microOpsOf d)
    cases hidle.symm.trans hrun
    exact ⟨he, .inl ⟨i, hi, rfl⟩⟩
  · have hm : Represents s.buf (wordsOf s.buf) :=
      ⟨hs.memory, checks_pass_iff_validBuffer.1 ⟨hwritten, hi⟩, rfl⟩
    obtain ⟨m, hcomplete, hm'⟩ := stepN_microOpsOf hm s d
    cases hcomplete.symm.trans hrun
    exact ⟨he, .inr ⟨hi, m, hm', rfl⟩⟩

/-- Settles O50: both runs end in the same way, with the same word reported or the same buffer. -/
theorem resultIgnoresHistory : Obligations.ResultIgnoresHistory := by
  intro s s' t t' d hs hs' hb hb' hbuf hts hts' ht ht'
  obtain ⟨he, hend⟩ := stepN_command_cases hs hb hts ht
  obtain ⟨he', hend'⟩ := stepN_command_cases hs' hb' hts' ht'
  rw [← hbuf] at hend'
  have hidx : s.erridx = s'.erridx := (hs.erridxZero he).trans (hs'.erridxZero he').symm
  obtain ⟨hphase, hk⟩ := hs.idle_of_not_busy hb
  obtain ⟨hphase', hk'⟩ := hs'.idle_of_not_busy hb'
  obtain ⟨i, hi, rfl⟩ | ⟨hi, m, hm, rfl⟩ := hend
  · obtain ⟨j, hj, rfl⟩ | ⟨hnone, -⟩ := hend'
    · cases hi.symm.trans hj
      exact ⟨hbuf, rfl, hb.trans hb'.symm, rfl, rfl, rfl, hphase.trans hphase'.symm, hk.trans hk'.symm⟩
    · cases hi.symm.trans hnone
  · obtain ⟨j, hj, -⟩ | ⟨-, m', hm', rfl⟩ := hend'
    · cases hi.symm.trans hj
    · exact ⟨hm.unique hm', rfl, rfl, rfl, he.trans he'.symm, hidx, rfl, rfl⟩

end Sys2Proof.Machine

/-! ## The exception, the idle block and the engine's turn (60_exceptions.md)

`InvalidResidue` names the lowest invalid word and stays until `RESET`; a turn left to the engine always goes on, and no
host move faults. -/

namespace Sys2Proof.Machine

open Sys2Proof.Config

variable {s : State} {ts : List Turn} {d : Dir} {a : Addr} {v : Word}

/-! ### A turn left to the engine -/

/-- An idle block lets the turn pass (R203). -/
theorem step_leftToEngine_of_idle (hl : LeftToEngine s ts) (hb : s.busy = false) :
    step s = .next (s.putTurns ts) := by
  rw [step, fetch_leftToEngine hl, engineTurn, State.putTurns_busy, hb]
  rfl

/-- While `BUSY = 1` the step is the micro-op of the code the sequencer generates (R37, R72). -/
theorem step_leftToEngine_of_uopCode {c : BitVec 2} (hl : LeftToEngine s ts) (hb : s.busy = true)
    (hc : uopCode s.phase s.op = some c) : step s = runWord (.uop c) (s.putTurns ts) := by
  rw [step, fetch_leftToEngine hl, engineTurn_of_uopCode (s := s.putTurns ts) hb hc]

/-- Settles O9: an idle block and a polling `WAIT` are turns left to the engine. -/
theorem idleAndWaitSteps : Obligations.IdleAndWaitSteps := by
  refine ⟨fun _ hts hb => step_of_idle hts hb, fun _ _ hts hf => step_waitOver hts hf,
    fun s ts hts hd he hb => ?_, fun s ts c hts hd he hb hc => ?_⟩
  · rw [step_leftToEngine_of_idle (.polling hts hd he) hb, putTurns_of_turns_eq hts]
  · rw [step_leftToEngine_of_uopCode (.polling hts hd he) hb hc, putTurns_of_turns_eq hts]

/-- While `BUSY = 1` a micro-op is pending and goes on: its operands are residues and its addresses exist (R53,
R192). -/
theorem exists_microOp_of_busy (hs : s.Inv) (hb : s.busy = true) :
    ∃ c t, uopCode s.phase s.op = some c ∧ runWord (.uop c) s = .next t := by
  have hm : Represents s.buf (wordsOf s.buf) := ⟨hs.memory, hs.residues hb, rfl⟩
  cases hp : s.phase with
  | idle => exact absurd hp (hs.busyPhase.1 hb)
  | bfly =>
    cases hop : s.op with
    | fwd =>
      obtain ⟨m, hnext, -⟩ := hm.butterfly (rom := .twf) (by decide) (fwdPair_inRange s.k) residueComb_ctOut
      exact ⟨0#2, _, rfl, execBflyCt_eq_next.2 ⟨⟨hb, hp, hop⟩, m, hnext, rfl⟩⟩
    | inv =>
      obtain ⟨m, hnext, -⟩ := hm.butterfly (rom := .twi) (by decide) (invPair_inRange s.k) residueComb_gsOut
      exact ⟨1#2, _, rfl, execBflyGs_eq_next.2 ⟨⟨hb, hp, hop⟩, m, hnext, rfl⟩⟩
  | scale =>
    obtain ⟨m, hnext, -⟩ := hm.scaleWord (hs.scaleK hp).2
    exact ⟨2#2, _, rfl, execScale_eq_next.2 ⟨⟨hb, hp⟩, m, hnext, rfl⟩⟩

theorem exists_step_of_leftToEngine (hs : s.Inv) (hl : LeftToEngine s ts) : ∃ t, step s = .next t := by
  cases hb : s.busy with
  | false => exact ⟨_, step_leftToEngine_of_idle hl hb⟩
  | true =>
    obtain ⟨c, t, hc, ht⟩ := exists_microOp_of_busy (hs.putTurns ts) hb
    exact ⟨t, (step_leftToEngine_of_uopCode hl hb hc).trans ht⟩

/-- A `WAIT` is over or leaves the turn to the engine (R75). -/
theorem exists_step_of_wait (hs : s.Inv) (hts : s.turns = .host .wait :: ts) : ∃ t, step s = .next t := by
  by_cases hf : s.done = true ∨ s.err = true
  · exact ⟨_, step_waitOver hts hf⟩
  · obtain ⟨hd, he⟩ : s.done = false ∧ s.err = false := by simpa using hf
    exact exists_step_of_leftToEngine hs (.polling hts hd he)

/-! ### No step faults -/

theorem acceptCommand_ne_fault (r : Fault) : acceptCommand d s ≠ .fault r := by
  unfold acceptCommand
  split
  · nofun
  · split
    · nofun
    · cases firstUnwritten s.buf with
      | some i => nofun
      | none => cases firstInvalid s.buf <;> nofun

/-- The 8-bit address of a request exists (R50). -/
theorem execHostRd_ne_fault (r : Fault) : execHostRd a s ≠ .fault r := by
  unfold execHostRd
  split
  · nofun
  · intro h
    obtain h | ⟨w, -, h⟩ := andThen_eq_fault.1 h
    · exact (memRead_eq_fault.1 h).1 a.isLt
    · cases h

theorem execHostWr_ne_fault (r : Fault) : execHostWr a v s ≠ .fault r := by
  unfold execHostWr
  split <;> nofun

theorem ne_fault_of_exists_next {x : Host.Outcome State Fault Refusal} (h : ∃ t, x = .next t) (r : Fault) :
    x ≠ .fault r := by
  obtain ⟨t, rfl⟩ := h
  nofun

theorem step_ne_fault (hs : s.Inv) (r : Fault) : step s ≠ .fault r := by
  cases hts : s.turns with
  | nil => exact ne_fault_of_exists_next (exists_step_of_leftToEngine hs (.unscheduled hts)) r
  | cons x ts =>
    cases x with
    | engine => exact ne_fault_of_exists_next (exists_step_of_leftToEngine hs (.scheduled hts)) r
    | host m =>
      cases m with
      | command op =>
        obtain ⟨d, hd⟩ := exec_decodeCmd op (s.putTurns ts)
        rw [step_command hts, hd]
        exact acceptCommand_ne_fault r
      | request w =>
        rw [step_request hts]
        obtain ⟨a, v, hw⟩ | ⟨a, hr⟩ := exec_decodeBufreq w (s.putTurns ts)
        · rw [hw]
          exact execHostWr_ne_fault r
        · rw [hr]
          exact execHostRd_ne_fault r
      | readStatus => exact ne_fault_of_exists_next ⟨_, step_readStatus hts⟩ r
      | reset => exact ne_fault_of_exists_next ⟨_, step_reset hts⟩ r
      | wait => exact ne_fault_of_exists_next (exists_step_of_wait hs hts) r

/-- Settles O43: the invariant gives a micro-op its residues and its addresses. -/
theorem engineStepsNeverStop : Obligations.EngineStepsNeverStop := by
  refine fun s hs => ⟨step_ne_fault hs, fun _ hturn => ?_⟩
  obtain hts | ⟨ts, hts⟩ | ⟨ts, hts⟩ := hturn
  · exact exists_step_of_leftToEngine hs (.unscheduled hts)
  · exact exists_step_of_leftToEngine hs (.scheduled hts)
  · exact exists_step_of_wait hs hts

/-! ### `InvalidResidue` -/

/-- With every word written, acceptance takes the exception at the lowest invalid word (R190). -/
theorem acceptCommand_of_invalid {i : Nat} (hb : s.busy = false) (he : s.err = false)
    (hw : firstUnwritten s.buf = none) (hi : firstInvalid s.buf = some i) :
    acceptCommand d s = .next ((s.latchCommand d).raiseInvalidResidue i) :=
  acceptCommand_eq_next.2 ⟨hb, he, hw, .inl ⟨i, hi, rfl⟩⟩

theorem State.raiseInvalidResidue_toNat (i : Addr) :
    s.raiseInvalidResidue i.toNat = { s with err := true, erridx := i } := by
  rw [State.raiseInvalidResidue, BitVec.ofNat_toNat, BitVec.setWidth_eq]

theorem isInvalidAt_eq_false {m : Memory} {j : Nat} (h : ∀ x, Memory.read m j = some x → x.toNat < Q) :
    isInvalidAt m j = false := by
  refine Bool.eq_false_iff.2 fun hj => ?_
  obtain ⟨x, hx, hq⟩ := isInvalidAt_eq_true.1 hj
  exact (h x hx).not_ge hq

/-- Settles O38: both commands report the word that `firstInvalid` finds. -/
theorem invalidResidueReportsLowestIndex : Obligations.InvalidResidueReportsLowestIndex := by
  intro s i w hb he hwritten hw hq hbelow
  have hnone : firstUnwritten s.buf = none :=
    firstUnwritten_eq_none.2 fun a ha => Option.isSome_iff_ne_none.2 (hwritten a ha)
  have hfirst : firstInvalid s.buf = some i.toNat :=
    firstInvalid_eq_some.2 ⟨i.isLt, isInvalidAt_eq_true.2 ⟨w, hw, hq⟩,
      fun j hj => isInvalidAt_eq_false (hbelow j hj)⟩
  have haccept (d : Dir) :
      acceptCommand d s = .next { s with op := d, done := false, err := true, erridx := i } := by
    rw [acceptCommand_of_invalid hb he hnone hfirst, State.raiseInvalidResidue_toNat]
    rfl
  exact ⟨haccept .fwd, haccept .inv⟩

/-- Settles O39: a command needs `ERR = 0`, and only commands and `RESET` write `ERR` or set `BUSY`. -/
theorem errIsStickyUntilReset : Obligations.ErrIsStickyUntilReset := by
  intro s t h herr
  obtain hreset | ⟨_, _, _, _, hclear⟩ | ⟨_, hkept, hidx, hflags⟩ := step_writers h
  · exact .inl hreset
  · simp [herr] at hclear
  · refine .inr ⟨hkept.trans herr, hidx, fun hbusy => ?_⟩
    obtain ⟨hb, -⟩ | ⟨hb, -, -⟩ := hflags
    · exact hb ▸ hbusy
    · exact hb

/-! ### Several instances -/

/-- A step of the system is a step of one instance, put back in its place (R201). -/
theorem systemStep_eq_next {sys sys' : List State} {i : Fin sys.length} :
    systemStep sys i = .next sys' ↔ ∃ t, step sys[i] = .next t ∧ sys' = sys.set i t :=
  andThen_next_eq_next

/-- Settles O47: only the place of instance `i` is set. -/
theorem instancesAreIndependent : Obligations.InstancesAreIndependent := by
  intro sys sys' i h
  obtain ⟨t, ht, rfl⟩ := systemStep_eq_next.1 h
  exact ⟨List.length_set, ⟨t, ht, List.getElem?_set_self i.isLt⟩, fun _ hj => List.getElem?_set_ne (Ne.symm hj)⟩

end Sys2Proof.Machine

/-! ## The ownership check of a script (93_implementation_defined.md U1)

The check follows `BUSY` from above: it counts a transform as running from a command to the next `WAIT` or `RESET`,
and what passes with a transform running passes without one. -/

namespace Sys2Proof.Machine

variable {s t : State} {ts : List Turn} {d : Dir} {a : Addr} {b : Bool} {r : Refusal}

/-! ### The check, by the head of the schedule -/

/-- The check asks nothing of an idle block that it does not ask of a running one. -/
theorem scriptWf_false_of_scriptWf (h : scriptWf b ts = true) : scriptWf false ts = true := by
  induction ts generalizing b with
  | nil => rfl
  | cons x ts ih =>
    cases x with
    | engine => exact ih h
    | host m =>
      cases m with
      | command op => exact (Bool.and_eq_true_iff.1 h).2
      | request w => exact ih (Bool.and_eq_true_iff.1 h).2
      | readStatus => exact ih h
      | reset => exact h
      | wait => exact h

theorem scriptOk_iff_of_command {op : BitVec 1} (hts : s.turns = .host (.command op) :: ts) :
    s.scriptOk = true ↔ s.busy = false ∧ scriptWf true ts = true := by
  simp [State.scriptOk, hts, scriptWf]

theorem scriptOk_iff_of_request {w : BitVec 23} (hts : s.turns = .host (.request w) :: ts) :
    s.scriptOk = true ↔ s.busy = false ∧ scriptWf s.busy ts = true := by
  simp [State.scriptOk, hts, scriptWf]

/-- The check asks nothing of an engine's turn, and a polling `WAIT` stays (R75). -/
theorem LeftToEngine.scriptOk_eq (hl : LeftToEngine s ts) : s.scriptOk = scriptWf s.busy ts := by
  cases hl with
  | unscheduled hts => rw [State.scriptOk, hts]
  | scheduled hts => rw [State.scriptOk, hts]; rfl
  | polling hts _ _ => rw [State.scriptOk, hts]

/-! ### A step that goes on keeps the check -/

/-- A block that is at most as busy passes with the same schedule. -/
theorem scriptOk_of_busy_le (hts : t.turns = ts) (hb : t.busy = b ∨ t.busy = false) (h : scriptWf b ts = true) :
    t.scriptOk = true := by
  rw [State.scriptOk, hts]
  obtain hb | hb := hb
  · rwa [hb]
  · rw [hb]
    exact scriptWf_false_of_scriptWf h

theorem scriptOk_of_acceptCommand (h : acceptCommand d s = .next t) (hok : scriptWf true s.turns = true) :
    t.scriptOk = true := by
  obtain ⟨hb, -, -, ⟨i, -, rfl⟩ | ⟨-, rfl⟩⟩ := acceptCommand_eq_next.1 h
  · exact scriptOk_of_busy_le rfl (.inr hb) hok
  · exact scriptOk_of_busy_le rfl (.inl rfl) hok

/-- The schedule is the host's, and a micro-op can only end the transform. -/
theorem scriptOk_of_sequenced (h : Sequenced s t) (hok : s.scriptOk = true) : t.scriptOk = true := by
  cases h with
  | advance _ => exact hok
  | toScale _ => exact hok
  | complete => exact scriptOk_of_busy_le rfl (.inr rfl) hok

theorem scriptOk_of_microOp (h : MicroOp s t) (hok : s.scriptOk = true) : t.scriptOk = true := by
  obtain ⟨m, -, hseq⟩ := microOp_next h
  exact scriptOk_of_sequenced (s := s.putBuf m) hseq hok

theorem State.Inv.not_busy_of_done_or_err (hs : s.Inv) (hf : s.done = true ∨ s.err = true) : s.busy = false := by
  refine Bool.eq_false_iff.2 fun hb => ?_
  obtain ⟨hd, he⟩ := hs.done_err_of_busy hb
  simp [hd, he] at hf

/-- By the case of the step; a `WAIT` that is over leaves an idle block (R75). -/
theorem scriptOk_of_step (hs : s.Inv) (hok : s.scriptOk = true) (h : step s = .next t) : t.scriptOk = true := by
  cases step_cases h with
  | reset ts hts ht =>
    subst ht
    rwa [State.scriptOk, hts] at hok
  | command _ ts hts d ht => exact scriptOk_of_acceptCommand ht ((scriptOk_iff_of_command hts).1 hok).2
  | write _ ts hts a v ht =>
    obtain ⟨-, rfl⟩ := execHostWr_eq_next.1 ht
    exact ((scriptOk_iff_of_request hts).1 hok).2
  | read _ ts hts a ht =>
    obtain ⟨-, w, -, rfl⟩ := execHostRd_eq_next.1 ht
    exact ((scriptOk_iff_of_request hts).1 hok).2
  | status ts hts ht =>
    subst ht
    rwa [State.scriptOk, hts] at hok
  | waitOver ts hts hf ht =>
    subst ht
    rw [State.scriptOk, hts] at hok
    exact scriptOk_of_busy_le rfl (.inr (hs.not_busy_of_done_or_err hf)) hok
  | idle ts hl _ ht =>
    subst ht
    rwa [hl.scriptOk_eq] at hok
  | microOp ts hl _ ht =>
    rw [hl.scriptOk_eq] at hok
    exact scriptOk_of_microOp (s := s.putTurns ts) ht hok

/-! ### What a script that passes can still be refused for -/

theorem refusal_of_acceptCommand_of_idle (hb : s.busy = false) (h : acceptCommand d s = .refused r) :
    r = .commandWhileErr ∨ ∃ i, r = .unwrittenWord i := by
  cases he : s.err with
  | true => cases (acceptCommand_of_err hb he).symm.trans h; exact .inl rfl
  | false =>
    cases hw : firstUnwritten s.buf with
    | some i => cases (acceptCommand_of_unwritten hb he hw).symm.trans h; exact .inr ⟨i, rfl⟩
    | none =>
      cases hi : firstInvalid s.buf with
      | some i => cases (acceptCommand_of_invalid hb he hw hi).symm.trans h
      | none => cases (acceptCommand_of_valid hb he (checks_pass_iff_validBuffer.1 ⟨hw, hi⟩)).symm.trans h

theorem refusal_of_execHostRd_of_idle (hb : s.busy = false) (h : execHostRd a s = .refused r) :
    r = .unwrittenWord a.toNat := by
  cases hw : Memory.read s.buf a.toNat with
  | some w => cases (execHostRd_of_written hb hw).symm.trans h
  | none => cases (execHostRd_of_unwritten hb hw).symm.trans h; rfl

/-- The host's other moves and the engine's turns always go on, and commands and requests find the block idle. -/
theorem refusal_of_scriptOk (hs : s.Inv) (hok : s.scriptOk = true) (h : step s = .refused r) :
    r = .commandWhileErr ∨ ∃ i, r = .unwrittenWord i := by
  have hstops : ¬ ∃ t, step s = .next t := by
    rintro ⟨t, ht⟩
    cases ht.symm.trans h
  cases hts : s.turns with
  | nil => exact absurd (exists_step_of_leftToEngine hs (.unscheduled hts)) hstops
  | cons x ts =>
    cases x with
    | engine => exact absurd (exists_step_of_leftToEngine hs (.scheduled hts)) hstops
    | host m =>
      cases m with
      | command op =>
        have hb : s.busy = false := ((scriptOk_iff_of_command hts).1 hok).1
        obtain ⟨d, hd⟩ := exec_decodeCmd op (s.putTurns ts)
        rw [step_command hts, hd] at h
        exact refusal_of_acceptCommand_of_idle (s := s.putTurns ts) hb h
      | request w =>
        have hb : s.busy = false := ((scriptOk_iff_of_request hts).1 hok).1
        rw [step_request hts] at h
        obtain ⟨a, v, hw⟩ | ⟨a, hr⟩ := exec_decodeBufreq w (s.putTurns ts)
        · rw [hw, execHostWr_of_idle (s := s.putTurns ts) hb] at h
          cases h
        · rw [hr] at h
          exact .inr ⟨_, refusal_of_execHostRd_of_idle (s := s.putTurns ts) hb h⟩
      | readStatus => exact absurd ⟨_, step_readStatus hts⟩ hstops
      | reset => exact absurd ⟨_, step_reset hts⟩ hstops
      | wait => exact absurd (exists_step_of_wait hs hts) hstops

/-- Settles O46: only `ERR = 1` and unwritten words are left as grounds for a refusal, and each step that goes on keeps
the check. -/
theorem checkedScriptsKeepHandsOff : Obligations.CheckedScriptsKeepHandsOff := fun _ hs hok =>
  ⟨fun h => by simpa using refusal_of_scriptOk hs hok h, fun h => by simpa using refusal_of_scriptOk hs hok h,
    fun _ h => scriptOk_of_step hs hok h⟩

end Sys2Proof.Machine
